-- ==== Sys2Proof/Word.lean ====
section
/-! DEFINITION. The byte, the unit of every register, bus transfer and frame of FCODEC (00_scope.md R7,
20_memory.md R48). Byte-order and checksum helpers are in Machine/Bytes.lean. -/

namespace Sys2Proof

/-- An 8-bit byte: "All bytes are 8 bits" (00_scope.md R7). -/
abbrev Byte := BitVec 8

end Sys2Proof
end

