-- ==== Sys2Proof/Config.lean ====
section
/-! DEFINITION. The free values of the model: what the spec leaves open and no proof may know. -/

namespace Sys2Proof

/-- The value the `n`-th host read made while STATUS.BUSY = 1 finds on the bus, before STATUS bit 7 is made exact:
"A model draws that value freely and independently on each read" (70_reset_and_hazards.md R125). It has no body;
`State.draws` numbers the reads. Log 6. -/
opaque Config.busyRead : Nat → Byte

end Sys2Proof
end

