-- ==== Sys2Proof/Machine/Bytes.lean ====
section
/-! DEFINITION. Byte helpers: the checksum, big-endian groups, the bytes of a word, and writing a frame into a buffer. -/

namespace Sys2Proof.Machine

/-- `checksum(b) = (b_0 + … + b_(n-1)) mod 256`, 0x00 for the empty sequence (40_checksum.md R79). -/
def checksum (bs : List Byte) : Byte :=
  BitVec.ofNat 8 (bs.map BitVec.toNat).sum

/-- `b1:b0`, the byte named first in the more significant position (00_scope.md R7, 10_state.md R26). -/
def be16 (b1 b0 : Byte) : BitVec 16 := b1 ++ b0

/-- `b3:b2:b1:b0`, the byte named first in the most significant position (00_scope.md R7, 10_state.md R26). -/
def be32 (b3 b2 b1 b0 : Byte) : BitVec 32 := b3 ++ b2 ++ b1 ++ b0

/-- Bits `8k+7:8k` of a word: byte `k` counted from the least significant (10_state.md R36). -/
def byteAt {n : Nat} (v : BitVec n) (k : Nat) : Byte := v.extractLsb' (8 * k) 8

/-- The `n` bytes of a frame whose bits are numbered as one number, byte 0 the most significant
(30_encoding.md section 3: "byte 0 first, and within each byte bit 7 first"). -/
def bytesOfNat : Nat → Nat → List Byte
  | 0, _ => []
  | n + 1, w => BitVec.ofNat 8 (w >>> (8 * n)) :: bytesOfNat n w

/-- A buffer after the bytes `bs` are written to it from index 0: byte `i` of the frame at index `i`, and every index
at and above the frame's length as it was (10_state.md R29). -/
def overlay {n : Nat} (old : Vector Byte n) (bs : List Byte) : Vector Byte n :=
  Vector.ofFn fun i => bs.getD i.val old[i]

end Sys2Proof.Machine
end

