-- ==== Sys2Proof/Syntax.lean ====
section
/-! DEFINITION. Syntax: the instructions (one constructor per row of spec/opcode_table.json), what carries their
encodings, the registers of the address map (10_state.md R18) and the commands of the CMD register (30_encoding.md R63). -/

namespace Sys2Proof

/-- The instructions. The first eleven are the host layer: what one 17-bit transaction word means (30_encoding.md R59,
R61). The last five are the wire layer: the frames the host carries between FCODEC and the serial link (30_encoding.md
R66 to R71, 20_memory.md R58; log 10). -/
inductive Instr where
  /-- `wr CMD, 0x01`: build the ping frame (41_encoder.md R84). -/
  | encPing
  /-- `wr CMD, 0x02`: build the get-position frame (41_encoder.md R85). -/
  | encGetpos
  /-- `wr CMD, 0x03`: validate the move parameters and build the move frame (41_encoder.md R86, R87). -/
  | encMove
  /-- `wr CMD, 0x04`: decode a status reply as the answer to a ping (42_decoder.md R91). -/
  | decPing
  /-- `wr CMD, 0x05`: decode a status reply as the acknowledgment of a move (42_decoder.md R92). -/
  | decMoveack
  /-- `wr CMD, 0x06`: decode a position reply (42_decoder.md R93 to R99). -/
  | decPos
  /-- `wr CMD, 0x07`: clear the checksum accumulator (40_checksum.md R80). -/
  | csumClr
  /-- `wr CMD, d` for a code `d` that no command has (60_exceptions.md R108). -/
  | cmdIllegal (d : Byte)
  /-- `wr CSUM_IN, d`: add `d` to the checksum accumulator (40_checksum.md R81). -/
  | csumIn (d : Byte)
  /-- `wr a, d`: every write no row above matches (20_memory.md R46). -/
  | wr (a d : Byte)
  /-- `rd a`: every read (20_memory.md R45); `d` is the word's don't-care data field (30_encoding.md R64). -/
  | rd (a d : Byte)
  /-- The ping frame: device address, checksum (30_encoding.md R66). -/
  | framePing (a c : Byte)
  /-- The get-position frame: device address, checksum (30_encoding.md R67). -/
  | frameGetpos (a c : Byte)
  /-- The move frame: device address, direction, speed bits 7:4, speed bits 3:0, acceleration, pulses, checksum
  (30_encoding.md R68). -/
  | frameMove (a : Byte) (d : BitVec 1) (s t : BitVec 4) (g : Byte) (p : BitVec 32) (c : Byte)
  /-- The status reply: address, opcode echo, result byte (30_encoding.md R70). -/
  | frameStatusReply (a e r : Byte)
  /-- The position reply: address, opcode echo, carry, value, trailer (30_encoding.md R71). -/
  | framePosReply (a e : Byte) (k : BitVec 32) (v : BitVec 16) (z : Byte)
deriving DecidableEq, Repr

/-- What carries an instruction's encoding: a host transaction word (30_encoding.md R59) or the bytes of a frame on the
serial link, byte 0 first (30_encoding.md section 3). -/
inductive Packet where
  | host (w : BitVec 17)
  | link (bytes : List Byte)
deriving DecidableEq, Repr

/-- Why link bytes are none of the five frames (host words always decode, 30_encoding.md R59). -/
inductive DecodeError where
  /-- No host row matches: never answered, since every 17-bit word decodes. -/
  | noHostRow
  /-- The length is not 4, 10 or 11 (30_encoding.md R75). -/
  | badLength
  /-- Byte 0 is neither the HEADER nor the REPLY_HEADER that a frame of this length has (30_encoding.md R65). -/
  | badHeader
  /-- Byte 2 of a command frame is not the opcode of a frame of this length (30_encoding.md R65, R75). -/
  | badOpcode
  /-- Byte 3 bits 6:4 or byte 4 bits 7:4 of a move frame are not 0 (30_encoding.md R68). -/
  | badReservedBits
deriving DecidableEq, Repr

/-- The registers of the address map (10_state.md R18), by name. `posCarry k`, `posValue k` and `posResult k` are the
byte registers POS_CARRY_k, POS_VALUE_k and POS_RESULT_k. -/
inductive Reg where
  | cmd | status | config | devAddr | dir | accel | speedHi | speedLo
  | pulses3 | pulses2 | pulses1 | pulses0 | txLen | rxLen | csumAcc | csumIn
  | txBuf (i : Fin 11)
  | rxBuf (i : Fin 10)
  | posCarry (k : Fin 4)
  | posValue (k : Fin 2)
  | posResult (k : Fin 8)
  | reserved
deriving DecidableEq, Repr

/-- The access key of the address map (10_state.md R18). -/
inductive Access where
  | rw | ro | wo | rsvd
deriving DecidableEq, Repr

/-- What a code in PENDING asks of the core (30_encoding.md R63; `illegal` for every other code, R64). -/
inductive Command where
  | encPing | encGetpos | encMove | decPing | decMoveack | decPos | csumClr | illegal
deriving DecidableEq, Repr

end Sys2Proof
end

