-- ==== Sys2Proof/Decode.lean ====
section
/-! DEFINITION. Decoding: host words and link frames to instructions, total and rejecting by name; register addresses
to registers; command codes to commands. After it the encoder, from the same tables of the spec. -/

namespace Sys2Proof

open Machine (be16 be32 byteAt bytesOfNat)

/-! ### Host layer (30_encoding.md R59 to R64) -/

/-- One host-layer row of spec/opcode_table.json: a word `w` is this instruction if `w &&& mask = pattern`, and `make`
gives it the word's A and D fields. -/
structure HostRow where
  mask : BitVec 17
  pattern : BitVec 17
  make : Byte → Byte → Instr

/-- The host-layer rows in table order: seven CMD rows, the illegal-CMD row, CSUM_IN, WR, RD (30_encoding.md R61). -/
def hostRows : List HostRow :=
  [ ⟨0x1FFFF#17, 0x10001#17, fun _ _ => .encPing⟩,
    ⟨0x1FFFF#17, 0x10002#17, fun _ _ => .encGetpos⟩,
    ⟨0x1FFFF#17, 0x10003#17, fun _ _ => .encMove⟩,
    ⟨0x1FFFF#17, 0x10004#17, fun _ _ => .decPing⟩,
    ⟨0x1FFFF#17, 0x10005#17, fun _ _ => .decMoveack⟩,
    ⟨0x1FFFF#17, 0x10006#17, fun _ _ => .decPos⟩,
    ⟨0x1FFFF#17, 0x10007#17, fun _ _ => .csumClr⟩,
    ⟨0x1FF00#17, 0x10000#17, fun _ d => .cmdIllegal d⟩,
    ⟨0x1FF00#17, 0x10F00#17, fun _ d => .csumIn d⟩,
    ⟨0x10000#17, 0x10000#17, fun a d => .wr a d⟩,
    ⟨0x10000#17, 0x00000#17, fun a d => .rd a d⟩ ]

/-- Field A of a host word, bits 15:8 (30_encoding.md R59). -/
def fieldA (w : BitVec 17) : Byte := w.extractLsb' 8 8

/-- Field D of a host word, bits 7:0 (30_encoding.md R59). -/
def fieldD (w : BitVec 17) : Byte := w.extractLsb' 0 8

/-- The first row that matches: "the first row whose `(word & mask) = match` holds is its instruction"
(30_encoding.md R61). -/
def firstMatch (w : BitVec 17) : List HostRow → Option Instr
  | [] => none
  | row :: rows =>
    if w &&& row.mask = row.pattern then some (row.make (fieldA w) (fieldD w)) else firstMatch w rows

/-- The host decoder (30_encoding.md R61). -/
def decodeHost (w : BitVec 17) : Except DecodeError Instr :=
  match firstMatch w hostRows with
  | some i => .ok i
  | none => .error .noHostRow

/-! ### Wire layer (30_encoding.md R65 to R75) -/

/-- The frames of four bytes: ping, get-position, status reply (30_encoding.md R66, R67, R70). -/
def decodeLink4 (b0 b1 b2 b3 : Byte) : Except DecodeError Instr :=
  if b0 = 0xFA then
    if b2 = 0x3A then .ok (.framePing b1 b3)
    else if b2 = 0x30 then .ok (.frameGetpos b1 b3)
    else .error .badOpcode
  else if b0 = 0xFB then .ok (.frameStatusReply b1 b2 b3)
  else .error .badHeader

/-- The frame of ten bytes: the position reply (30_encoding.md R71, R72). -/
def decodeLink10 (b0 b1 b2 b3 b4 b5 b6 b7 b8 b9 : Byte) : Except DecodeError Instr :=
  if b0 = 0xFB then .ok (.framePosReply b1 b2 (be32 b3 b4 b5 b6) (be16 b7 b8) b9)
  else .error .badHeader

/-- The frame of eleven bytes: the move frame (30_encoding.md R68). -/
def decodeLink11 (b0 b1 b2 b3 b4 b5 b6 b7 b8 b9 b10 : Byte) : Except DecodeError Instr :=
  if b0 ≠ 0xFA then .error .badHeader
  else if b2 ≠ 0xFD then .error .badOpcode
  else if b3.extractLsb' 4 3 ≠ 0#3 ∨ b4.extractLsb' 4 4 ≠ 0#4 then .error .badReservedBits
  else .ok (.frameMove b1 (b3.extractLsb' 7 1) (b3.extractLsb' 0 4) (b4.extractLsb' 0 4) b5 (be32 b6 b7 b8 b9) b10)

/-- The frame decoder: "Every frame has a fixed length" (30_encoding.md R75). -/
def decodeLink : List Byte → Except DecodeError Instr
  | [b0, b1, b2, b3] => decodeLink4 b0 b1 b2 b3
  | [b0, b1, b2, b3, b4, b5, b6, b7, b8, b9] => decodeLink10 b0 b1 b2 b3 b4 b5 b6 b7 b8 b9
  | [b0, b1, b2, b3, b4, b5, b6, b7, b8, b9, b10] => decodeLink11 b0 b1 b2 b3 b4 b5 b6 b7 b8 b9 b10
  | _ => .error .badLength

/-- The decoder. -/
def decode : Packet → Except DecodeError Instr
  | .host w => decodeHost w
  | .link bs => decodeLink bs

/-! ### Register addresses and command codes -/

/-- The register at an address: the address map of 10_state.md R18, reserved addresses as in R39. -/
def regAt (a : Byte) : Reg :=
  match a.toNat with
  | 0x00 => .cmd
  | 0x01 => .status
  | 0x02 => .config
  | 0x03 => .devAddr
  | 0x04 => .dir
  | 0x05 => .accel
  | 0x06 => .speedHi
  | 0x07 => .speedLo
  | 0x08 => .pulses3
  | 0x09 => .pulses2
  | 0x0A => .pulses1
  | 0x0B => .pulses0
  | 0x0C => .txLen
  | 0x0D => .rxLen
  | 0x0E => .csumAcc
  | 0x0F => .csumIn
  | n =>
    if h : 0x10 ≤ n ∧ n ≤ 0x1A then .txBuf ⟨n - 0x10, by omega⟩
    else if h : 0x20 ≤ n ∧ n ≤ 0x29 then .rxBuf ⟨n - 0x20, by omega⟩
    else if h : 0x30 ≤ n ∧ n ≤ 0x33 then .posCarry ⟨0x33 - n, by omega⟩
    else if h : 0x34 ≤ n ∧ n ≤ 0x35 then .posValue ⟨0x35 - n, by omega⟩
    else if h : 0x38 ≤ n ∧ n ≤ 0x3F then .posResult ⟨0x3F - n, by omega⟩
    else .reserved

/-- The access key of a register (10_state.md R18). -/
def accessOf : Reg → Access
  | .cmd | .csumIn => .wo
  | .status | .txLen | .csumAcc | .txBuf _ | .posCarry _ | .posValue _ | .posResult _ => .ro
  | .config | .devAddr | .dir | .accel | .speedHi | .speedLo | .pulses3 | .pulses2 | .pulses1 | .pulses0 | .rxLen
  | .rxBuf _ => .rw
  | .reserved => .rsvd

/-- The command of a code in PENDING: 0x01 to 0x07 as 30_encoding.md R63 lists them, every other code illegal (R64). -/
def commandOf (c : Byte) : Command :=
  match c.toNat with
  | 0x01 => .encPing
  | 0x02 => .encGetpos
  | 0x03 => .encMove
  | 0x04 => .decPing
  | 0x05 => .decMoveack
  | 0x06 => .decPos
  | 0x07 => .csumClr
  | _ => .illegal

/-! ### The encoder -/

/-- The host word `W=1, A=a, D=d` (30_encoding.md R59). -/
def writeWord (a d : Byte) : BitVec 17 := 1#1 ++ a ++ d

/-- The host word `W=0, A=a, D=d` (30_encoding.md R59). -/
def readWord (a d : Byte) : BitVec 17 := 0#1 ++ a ++ d

/-- The encoding of an instruction: the host word of its row (30_encoding.md R59, R63) or the bytes of its frame
(R66 to R71). -/
def encode : Instr → Packet
  | .encPing => .host (writeWord 0x00 0x01)
  | .encGetpos => .host (writeWord 0x00 0x02)
  | .encMove => .host (writeWord 0x00 0x03)
  | .decPing => .host (writeWord 0x00 0x04)
  | .decMoveack => .host (writeWord 0x00 0x05)
  | .decPos => .host (writeWord 0x00 0x06)
  | .csumClr => .host (writeWord 0x00 0x07)
  | .cmdIllegal d => .host (writeWord 0x00 d)
  | .csumIn d => .host (writeWord 0x0F d)
  | .wr a d => .host (writeWord a d)
  | .rd a d => .host (readWord a d)
  | .framePing a c => .link [0xFA, a, 0x3A, c]
  | .frameGetpos a c => .link [0xFA, a, 0x30, c]
  | .frameMove a d s t g p c =>
    .link [0xFA, a, 0xFD, d ++ 0#3 ++ s, 0#4 ++ t, g, byteAt p 3, byteAt p 2, byteAt p 1, byteAt p 0, c]
  | .frameStatusReply a e r => .link [0xFB, a, e, r]
  | .framePosReply a e k v z =>
    .link [0xFB, a, e, byteAt k 3, byteAt k 2, byteAt k 1, byteAt k 0, byteAt v 1, byteAt v 0, z]

/-! ### The opcode table's numbering -/

/-- The packet whose bits are `w` as the opcode table numbers them. A row of at most 24 bits is a host word of 17 bits
(30_encoding.md R59). A longer row is a frame, and the table numbers its pattern as one number, so byte 0 is the most
significant (log 13). -/
def packetOfTableWord (nbits w : Nat) : Option Packet :=
  if nbits ≤ 24 then
    if w < 2 ^ 17 then some (.host (BitVec.ofNat 17 w)) else none
  else some (.link (bytesOfNat ((nbits + 7) / 8) w))

/-- The instruction the decoder reads from an instruction whose bits are `w` as the opcode table numbers them. -/
def decodeTableWord (nbits w : Nat) : Option Instr :=
  match packetOfTableWord nbits w with
  | some p => (decode p).toOption
  | none => none

end Sys2Proof
end

