-- ==== Sys2Proof/Machine/State.lean ====
section
/-! DEFINITION. The state of FCODEC (10_state.md R18 to R39) with the model's own schedule and free-value counter, the
reasons a step can stop, and the state after reset (70_reset_and_hazards.md R119). -/

namespace Sys2Proof.Machine

/-- Why the machine stops in a fault. -/
inductive Fault where
  /-- A host write to CMD while STATUS.BUSY = 1 (70_reset_and_hazards.md R123): "FCODEC's response is unspecified ... A
  model treats it as a fault". Raised by every instruction that writes CMD. Safe (log 8). -/
  | cmdWriteWhileBusy
  /-- Any other host write while STATUS.BUSY = 1, also to an RO or reserved address (70_reset_and_hazards.md R124): "A
  model treats the write as a fault". Raised by CSUM_IN, WR and the delivery of a reply frame. Safe (log 8). -/
  | writeWhileBusy
deriving DecidableEq, Repr

/-- Why the model gives a step no meaning. -/
inductive Refusal where
  /-- The instruction has no meaning yet. Raised by `exec`'s refused arms only. Safe. -/
  | notModelled (mnemonic : String)
  /-- The bytes of a link event are none of the five frames of 30_encoding.md R66 to R71, so there is no instruction.
  Raised by `step`. Safe (log 12). -/
  | undecodable (e : DecodeError)
deriving DecidableEq, Repr

/-- The error codes of STATUS.ERR by name (60_exceptions.md R102). Values 6 and 7 are never written (10_state.md R19),
so there is no name for them (log 18). -/
inductive ErrCode where
  | none | validation | shortRead | malformed | protoMismatch | illegalCmd
deriving DecidableEq, Repr

/-- STATUS, by field (10_state.md R19); bits 6:5 are reserved and hold nothing. -/
structure Status where
  busy : Bool
  posValid : Bool
  ack : Bool
  err : ErrCode
deriving DecidableEq, Repr

/-- The parameter registers, byte by byte (10_state.md R22 to R27). DIR holds its one implemented bit (R23). -/
structure Params where
  devAddr : Byte
  dir : BitVec 1
  accel : Byte
  speedHi : Byte
  speedLo : Byte
  pulses3 : Byte
  pulses2 : Byte
  pulses1 : Byte
  pulses0 : Byte
deriving DecidableEq, Repr

/-- The position result groups POS_CARRY, POS_VALUE and POS_RESULT (10_state.md R34 to R36). -/
structure Position where
  carry : BitVec 32
  value : BitVec 16
  result : BitVec 64
deriving DecidableEq, Repr

/-- What happens next to FCODEC: one element of the single total order of 20_memory.md R53 (log 1). -/
inductive Event where
  /-- The host issues a transaction, or carries a frame to or from the link (10_state.md R15, 20_memory.md R58). -/
  | packet (p : Packet)
  /-- The core gets a turn: it takes its step if one is enabled (10_state.md R38). -/
  | core
  /-- Reset (70_reset_and_hazards.md R118). -/
  | reset
deriving DecidableEq, Repr

/-- The state of FCODEC. -/
structure State where
  /-- STATUS (10_state.md R19). -/
  status : Status
  /-- CONFIG.FMT (10_state.md R21). -/
  fmt : BitVec 1
  /-- DEVADDR, DIR, ACCEL, SPEED, PULSES (10_state.md R22 to R27). -/
  params : Params
  /-- TX_LEN bits 3:0; bits 7:4 always read 0 (10_state.md R28). -/
  txLen : BitVec 4
  /-- TX_BUF[0] to TX_BUF[10] (10_state.md R29). -/
  txBuf : Vector Byte 11
  /-- RX_LEN bits 3:0 (10_state.md R30). -/
  rxLen : BitVec 4
  /-- RX_BUF[0] to RX_BUF[9] (10_state.md R31). -/
  rxBuf : Vector Byte 10
  /-- CSUM_ACC (10_state.md R32). -/
  csumAcc : Byte
  /-- POS_CARRY, POS_VALUE, POS_RESULT (10_state.md R34 to R36). -/
  pos : Position
  /-- PENDING, the hidden latch (10_state.md R37). -/
  pending : Byte
  /-- The value the last host read returned, on the port rdata[7:0] (20_memory.md R45, 92_eei_decisions.md D1; log 5). -/
  rdata : Byte
  /-- The model's own: how many free values reads have drawn (70_reset_and_hazards.md R125; log 6). -/
  draws : Nat
  /-- The model's own: what happens next, oldest first (20_memory.md R53; log 1). -/
  events : List Event
deriving DecidableEq, Repr

/-- Right after reset: every register at the value of 70_reset_and_hazards.md R119. rdata, draws and events are the
model's own choices (log 5, log 6, log 2). -/
def State.reset : State where
  status := { busy := false, posValid := false, ack := false, err := .none }
  fmt := 0
  params :=
    { devAddr := 0, dir := 0, accel := 0, speedHi := 0, speedLo := 0, pulses3 := 0, pulses2 := 0, pulses1 := 0, pulses0 := 0 }
  txLen := 0
  txBuf := Vector.replicate 11 0
  rxLen := 0
  rxBuf := Vector.replicate 10 0
  csumAcc := 0
  pos := { carry := 0, value := 0, result := 0 }
  pending := 0
  rdata := 0
  draws := 0
  events := []

end Sys2Proof.Machine
end

