-- ==== Sys2Proof/Machine/Flags.lean ====
section
/-! DEFINITION. STATUS: the error codes, the byte a read returns, and everything that writes a flag
(10_state.md R19, R38, R41; 60_exceptions.md R102). -/

namespace Sys2Proof.Machine

/-- The number of an error code (60_exceptions.md R102). -/
def errNumber : ErrCode → BitVec 3
  | .none => 0
  | .validation => 1
  | .shortRead => 2
  | .malformed => 3
  | .protoMismatch => 4
  | .illegalCmd => 5

/-- STATUS as a read returns it: BUSY, two reserved zeros, POS_VALID, ACK, ERR (10_state.md R19). -/
def statusByte (f : Status) : Byte :=
  BitVec.ofBool f.busy ++ 0#2 ++ BitVec.ofBool f.posValid ++ BitVec.ofBool f.ack ++ errNumber f.err

/-- A CMD write sets BUSY and no other flag (10_state.md R20). -/
def flagsBusy (f : Status) : Status := { f with busy := true }

/-- The opening step: ERR to NONE, ACK and POS_VALID to 0 (10_state.md R38). -/
def flagsOpen (f : Status) : Status := { f with err := .none, ack := false, posValid := false }

/-- `raise Err(CODE)` writes ERR and no other flag (00_scope.md R11). -/
def flagsRaise (e : ErrCode) (f : Status) : Status := { f with err := e }

/-- The boolean result of DEC_PING or DEC_MOVEACK (42_decoder.md R91, R92). -/
def flagsAck (b : Bool) (f : Status) : Status := { f with ack := b }

/-- DEC_POS succeeded (42_decoder.md R99). -/
def flagsPosValid (f : Status) : Status := { f with posValid := true }

/-- The closing step clears BUSY (10_state.md R38). -/
def flagsClose (f : Status) : Status := { f with busy := false }

end Sys2Proof.Machine
end

