-- ==== Sys2Proof/Machine/Operands.lean ====
section
/-! DEFINITION. The operands commands read: register groups and the fields of the reply in RX_BUF. -/

namespace Sys2Proof.Machine

/-- `x[SPEED] = x[SPEED_HI]:x[SPEED_LO]` (10_state.md R25). -/
def speedOf (p : Params) : BitVec 16 := be16 p.speedHi p.speedLo

/-- `x[PULSES] = PULSES_3:PULSES_2:PULSES_1:PULSES_0` (10_state.md R27). -/
def pulsesOf (p : Params) : BitVec 32 := be32 p.pulses3 p.pulses2 p.pulses1 p.pulses0

/-- The carry field of the position reply, bytes 3 to 6, byte 3 most significant (30_encoding.md R72). -/
def carryBits (b : Vector Byte 10) : BitVec 32 := be32 b[3] b[4] b[5] b[6]

/-- The value field of the position reply, bytes 7 and 8, byte 7 most significant (30_encoding.md R72). -/
def valueBits (b : Vector Byte 10) : BitVec 16 := be16 b[7] b[8]

end Sys2Proof.Machine
end

