-- ==== Sys2Proof/Machine/Ops.lean ====
section
/-! DEFINITION. The named operations over the registers: reading and storing one, the host's MemRead and MemWrite
(20_memory.md R45, R46), the steps common to every command (10_state.md R38), raising an error (00_scope.md R11),
writing a command frame, loading a reply, and reset (70_reset_and_hazards.md R119). -/

namespace Sys2Proof.Machine

/-! ### Registers -/

/-- The value of a register as a read returns it while BUSY = 0: reserved bits, WO registers and reserved addresses
read 0 (20_memory.md R45, 10_state.md R39); a byte of a group by its number (10_state.md R26, R36). -/
def readReg (r : Reg) (s : State) : Byte :=
  match r with
  | .cmd => 0x00
  | .status => statusByte s.status
  | .config => s.fmt.setWidth 8
  | .devAddr => s.params.devAddr
  | .dir => s.params.dir.setWidth 8
  | .accel => s.params.accel
  | .speedHi => s.params.speedHi
  | .speedLo => s.params.speedLo
  | .pulses3 => s.params.pulses3
  | .pulses2 => s.params.pulses2
  | .pulses1 => s.params.pulses1
  | .pulses0 => s.params.pulses0
  | .txLen => s.txLen.setWidth 8
  | .rxLen => s.rxLen.setWidth 8
  | .csumAcc => s.csumAcc
  | .csumIn => 0x00
  | .txBuf i => s.txBuf[i]
  | .rxBuf i => s.rxBuf[i]
  | .posCarry k => byteAt s.pos.carry k
  | .posValue k => byteAt s.pos.value k
  | .posResult k => byteAt s.pos.result k
  | .reserved => 0x00

/-- A CMD write: `PENDING <- v ; x[STATUS.BUSY] <- 1`, and nothing else (10_state.md R20). -/
def latchCommand (v : Byte) (s : State) : State :=
  { s with pending := v, status := flagsBusy s.status }

/-- A CSUM_IN write: `x[CSUM_ACC] <- (x[CSUM_ACC] + v) mod 256` (40_checksum.md R81). -/
def addToChecksum (v : Byte) (s : State) : State :=
  { s with csumAcc := s.csumAcc + v }

/-- What a write of `v` to a register does while BUSY = 0: an RW register stores it and drops reserved bits, CMD and
CSUM_IN act, RO registers and reserved addresses ignore it (20_memory.md R46). -/
def storeReg (r : Reg) (v : Byte) (s : State) : State :=
  match r with
  | .cmd => latchCommand v s
  | .csumIn => addToChecksum v s
  | .config => { s with fmt := v.setWidth 1 }
  | .devAddr => { s with params := { s.params with devAddr := v } }
  | .dir => { s with params := { s.params with dir := v.setWidth 1 } }
  | .accel => { s with params := { s.params with accel := v } }
  | .speedHi => { s with params := { s.params with speedHi := v } }
  | .speedLo => { s with params := { s.params with speedLo := v } }
  | .pulses3 => { s with params := { s.params with pulses3 := v } }
  | .pulses2 => { s with params := { s.params with pulses2 := v } }
  | .pulses1 => { s with params := { s.params with pulses1 := v } }
  | .pulses0 => { s with params := { s.params with pulses0 := v } }
  | .rxLen => { s with rxLen := v.setWidth 4 }
  | .rxBuf i => { s with rxBuf := s.rxBuf.set i v }
  | .status | .txLen | .csumAcc | .txBuf _ | .posCarry _ | .posValue _ | .posResult _ | .reserved => s

/-! ### Host transactions -/

/-- The byte at a register address while BUSY = 0 (20_memory.md R45). -/
def readByte (a : Byte) (s : State) : Byte := readReg (regAt a) s

/-- The byte a read of address `a` returns while BUSY = 1: STATUS bit 7 is 1 exactly, every other bit is free
(70_reset_and_hazards.md R125; log 6, log 7). -/
def busyByte (a : Byte) (free : Byte) : Byte :=
  if regAt a = .status then 0x80 ||| (0x7F &&& free) else free

/-- `MemRead(a, 1)`: returns a byte on rdata and changes no register (20_memory.md R45, 70_reset_and_hazards.md R125). -/
def memRead (a : Byte) (s : State) : State :=
  if s.status.busy then { s with rdata := busyByte a (Config.busyRead s.draws), draws := s.draws + 1 }
  else { s with rdata := readByte a s }

/-- `MemWrite(a, 1, v)` (20_memory.md R46); while BUSY = 1 a hazard violation (70_reset_and_hazards.md R123, R124). -/
def memWrite (a v : Byte) (s : State) : Host.Outcome State Fault Refusal :=
  if s.status.busy then
    if regAt a = .cmd then .fault .cmdWriteWhileBusy else .fault .writeWhileBusy
  else .next (storeReg (regAt a) v s)

/-- `m`, then `f` in the state it leaves; a stop of `m` stands. -/
def andThen (m : Host.Outcome State Fault Refusal) (f : State → Host.Outcome State Fault Refusal) :
    Host.Outcome State Fault Refusal :=
  match m with
  | .next s => f s
  | .fault r => .fault r
  | .refused r => .refused r

/-- Host writes of consecutive bytes from RX_BUF[i] on (30_encoding.md R78, `rxload`). -/
def writeReply (i : Nat) : List Byte → State → Host.Outcome State Fault Refusal
  | [], s => .next s
  | b :: bs, s => andThen (memWrite (BitVec.ofNat 8 (0x20 + i)) b s) (writeReply (i + 1) bs)

/-- `rxload b0, .., b(n-1)`: the host writes the reply bytes to RX_BUF and their count to RX_LEN (30_encoding.md R78,
20_memory.md R58). -/
def rxLoad (bs : List Byte) (s : State) : Host.Outcome State Fault Refusal :=
  andThen (writeReply 0 bs s) (memWrite 0x0D (BitVec.ofNat 8 bs.length))

/-! ### Steps of a command -/

/-- The opening step, common to every command (10_state.md R38). -/
def openCommand (s : State) : State := { s with status := flagsOpen s.status }

/-- The closing step, common to every command, also after a raise (10_state.md R38). -/
def closeCommand (s : State) : State := { s with status := flagsClose s.status }

/-- Taking an exception on this hardware, `raise Err(CODE)`: it writes STATUS.ERR; it saves no state, changes no mode
and redirects nothing (00_scope.md R11, 60_exceptions.md R107). A body that ends in it skips its rest; the closing step
follows. There is no return from it: the next command's opening step overwrites ERR (60_exceptions.md R110). -/
def raiseErr (e : ErrCode) (s : State) : State := { s with status := flagsRaise e s.status }

/-- An encode command's frame: its bytes into TX_BUF from index 0, its length into TX_LEN; TX_BUF above the frame keeps
its values (10_state.md R28, R29). -/
def putFrame (f : List Byte) (s : State) : State :=
  { s with txBuf := overlay s.txBuf f, txLen := BitVec.ofNat 4 f.length }

/-- No frame is to be sent: `x[TX_LEN] <- 0`, TX_BUF unchanged (41_encoder.md R86). -/
def dropFrame (s : State) : State := { s with txLen := 0 }

/-- The result of a status-reply decode: `x[STATUS.ACK] <- b` (42_decoder.md R91, R92). -/
def setAck (b : Bool) (s : State) : State := { s with status := flagsAck b s.status }

/-- The result of a position decode: the three groups and POS_VALID (42_decoder.md R99). -/
def setPosition (p : Position) (s : State) : State := { s with pos := p, status := flagsPosValid s.status }

/-- `x[CSUM_ACC] <- 0x00` (40_checksum.md R80). -/
def clearChecksum (s : State) : State := { s with csumAcc := 0x00 }

/-! ### Reset -/

/-- Reset: every register at its reset value (70_reset_and_hazards.md R119, R120). What the host has read, the free
values drawn and what happens next are not registers of FCODEC and stay (log 9). -/
def resetRegisters (s : State) : State :=
  { State.reset with rdata := s.rdata, draws := s.draws, events := s.events }

end Sys2Proof.Machine
end

