-- ==== Sys2Proof/Machine/Bus.lean ====
section
/-! DEFINITION. The generic host transactions WR and RD (20_memory.md R45, R46), and the write of an illegal command
code (60_exceptions.md R108). -/

namespace Sys2Proof.Machine

/-- The body of a code no command has: `raise Err(ILLEGAL_CMD)` (60_exceptions.md R108). -/
def bodyIllegal (s : State) : State := raiseErr .illegalCmd s

/-- CMD_ILLEGAL: the host writes code `d` to CMD; the write is accepted (30_encoding.md R64), and the core step raises
ILLEGAL_CMD (60_exceptions.md R108). -/
def execCmdIllegal (d : Byte) (s : State) : Host.Outcome State Fault Refusal := memWrite 0x00 d s

/-- WR: `MemWrite(a, 1, d)` (30_encoding.md R59, 20_memory.md R46). -/
def execWr (a d : Byte) (s : State) : Host.Outcome State Fault Refusal := memWrite a d s

/-- RD: `MemRead(a, 1)`; the word's data field is don't-care (30_encoding.md R59, R64, 20_memory.md R45). -/
def execRd (a _d : Byte) (s : State) : Host.Outcome State Fault Refusal := .next (memRead a s)

end Sys2Proof.Machine
end

