-- ==== Sys2Proof/Machine/Checksum.lean ====
section
/-! DEFINITION. The checksum family: CSUM_CLR and CSUM_IN (40_checksum.md). -/

namespace Sys2Proof.Machine

/-- The body of CSUM_CLR (40_checksum.md R80). -/
def bodyCsumClr (s : State) : State := clearChecksum s

/-- CSUM_CLR: the host writes code 0x07 to CMD (30_encoding.md R63); its body runs at the core step (10_state.md R38). -/
def execCsumClr (s : State) : Host.Outcome State Fault Refusal := memWrite 0x00 0x07 s

/-- CSUM_IN: the host writes `d` to 0x0F, and CSUM_ACC changes at the write (40_checksum.md R81). -/
def execCsumIn (d : Byte) (s : State) : Host.Outcome State Fault Refusal := memWrite 0x0F d s

end Sys2Proof.Machine
end

