-- ==== Sys2Proof/Machine/Decoder.lean ====
section
/-! DEFINITION. The decoder family: DEC_PING, DEC_MOVEACK and DEC_POS, with the position payload extractor
(42_decoder.md). -/

namespace Sys2Proof.Machine

/-- The first check every decode command fails, if any: SHORT_READ when fewer than `n` bytes were received, then
MALFORMED when byte 0 is not 0xFB (42_decoder.md R91 to R93, 60_exceptions.md R109; log 17). -/
def replyError (n : Nat) (s : State) : Option ErrCode :=
  if s.rxLen.toNat < n then some .shortRead
  else if s.rxBuf[0] ≠ 0xFB then some .malformed
  else none

/-- The first check DEC_POS fails, if any: the checks of every decode command on ten bytes, then PROTO_MISMATCH when
byte 1 is not DEVADDR (42_decoder.md R93). -/
def positionError (s : State) : Option ErrCode :=
  match replyError 10 s with
  | some e => some e
  | none => if s.rxBuf[1] ≠ s.params.devAddr then some .protoMismatch else none

/-- Formula A: `carry * 360 + ((value * 22) div 1000)`, exact, the quotient rounded toward zero (42_decoder.md R96; log
15). -/
def formulaA (carry : Int) (value : Nat) : Int := carry * 360 + ((value * 22 / 1000 : Nat) : Int)

/-- Formula B: `carry * 16383 + value`, exact (42_decoder.md R97; log 15). -/
def formulaB (carry : Int) (value : Nat) : Int := carry * 16383 + (value : Int)

/-- The position, by the formula CONFIG.FMT selects: 0 = A, 1 = B (42_decoder.md R95). -/
def positionOf (fmt : BitVec 1) (carry : Int) (value : Nat) : Int :=
  if fmt = 0 then formulaA carry value else formulaB carry value

/-- The three result groups of the reply in a buffer (42_decoder.md R94, R99): the carry read as two's complement (log
14), the value unsigned, the position as a 64-bit two's-complement pattern. -/
def decodedPosition (fmt : BitVec 1) (b : Vector Byte 10) : Position :=
  { carry := carryBits b
    value := valueBits b
    result := BitVec.ofInt 64 (positionOf fmt (carryBits b).toInt (valueBits b).toNat) }

/-- The body of DEC_PING (42_decoder.md R91). -/
def bodyDecPing (s : State) : State :=
  match replyError 4 s with
  | some e => raiseErr e s
  | none => setAck true s

/-- The body of DEC_MOVEACK: accepted iff byte 3 is 0x01 (42_decoder.md R92). -/
def bodyDecMoveack (s : State) : State :=
  match replyError 4 s with
  | some e => raiseErr e s
  | none => setAck (s.rxBuf[3] == 0x01) s

/-- The body of DEC_POS (42_decoder.md R93, R94, R99). -/
def bodyDecPos (s : State) : State :=
  match positionError s with
  | some e => raiseErr e s
  | none => setPosition (decodedPosition s.fmt s.rxBuf) s

/-- DEC_PING: the host writes code 0x04 to CMD (30_encoding.md R63); its body runs at the core step (10_state.md R38). -/
def execDecPing (s : State) : Host.Outcome State Fault Refusal := memWrite 0x00 0x04 s

/-- DEC_MOVEACK: the host writes code 0x05 to CMD (30_encoding.md R63); its body runs at the core step (10_state.md
R38). -/
def execDecMoveack (s : State) : Host.Outcome State Fault Refusal := memWrite 0x00 0x05 s

/-- DEC_POS: the host writes code 0x06 to CMD (30_encoding.md R63); its body runs at the core step (10_state.md R38). -/
def execDecPos (s : State) : Host.Outcome State Fault Refusal := memWrite 0x00 0x06 s

end Sys2Proof.Machine
end

