-- ==== Sys2Proof/Machine/Encoder.lean ====
section
/-! DEFINITION. The encoder family: ENC_PING, ENC_GETPOS and ENC_MOVE (41_encoder.md). -/

namespace Sys2Proof.Machine

/-- A frame's bytes followed by their checksum (40_checksum.md R79, R83). -/
def withChecksum (bs : List Byte) : List Byte := bs ++ [checksum bs]

/-- The ping frame to device `a` (30_encoding.md R66). -/
def pingFrame (a : Byte) : List Byte := withChecksum [0xFA, a, 0x3A]

/-- The get-position frame to device `a` (30_encoding.md R67). -/
def getposFrame (a : Byte) : List Byte := withChecksum [0xFA, a, 0x30]

/-- The move frame (30_encoding.md R68, 41_encoder.md R87): byte 3 is `(d << 7) | ((S >> 4) & 0x0F)`, byte 4 is
`S & 0x0F`, pulses most significant byte first. -/
def moveFrame (a : Byte) (d : BitVec 1) (speed : BitVec 16) (accel : Byte) (pulses : BitVec 32) : List Byte :=
  withChecksum
    [0xFA, a, 0xFD, (d.setWidth 8 <<< 7) ||| (((speed >>> 4) &&& 0x0F).setWidth 8), (speed &&& 0x0F).setWidth 8, accel,
      byteAt pulses 3, byteAt pulses 2, byteAt pulses 1, byteAt pulses 0]

/-- The move parameters are out of range: `S > 1600 or G > 32`, both unsigned (41_encoder.md R86; log 16). -/
def moveRejected (p : Params) : Bool := 1600 < (speedOf p).toNat || 32 < p.accel.toNat

/-- The body of ENC_PING (41_encoder.md R84). -/
def bodyEncPing (s : State) : State := putFrame (pingFrame s.params.devAddr) s

/-- The body of ENC_GETPOS (41_encoder.md R85). -/
def bodyEncGetpos (s : State) : State := putFrame (getposFrame s.params.devAddr) s

/-- The body of ENC_MOVE: the validation step (41_encoder.md R86), then the frame (R87). -/
def bodyEncMove (s : State) : State :=
  if moveRejected s.params then raiseErr .validation (dropFrame s)
  else
    putFrame (moveFrame s.params.devAddr s.params.dir (speedOf s.params) s.params.accel (pulsesOf s.params)) s

/-- ENC_PING: the host writes code 0x01 to CMD (30_encoding.md R63); its body runs at the core step (10_state.md R38). -/
def execEncPing (s : State) : Host.Outcome State Fault Refusal := memWrite 0x00 0x01 s

/-- ENC_GETPOS: the host writes code 0x02 to CMD (30_encoding.md R63); its body runs at the core step (10_state.md R38). -/
def execEncGetpos (s : State) : Host.Outcome State Fault Refusal := memWrite 0x00 0x02 s

/-- ENC_MOVE: the host writes code 0x03 to CMD (30_encoding.md R63); its body runs at the core step (10_state.md R38). -/
def execEncMove (s : State) : Host.Outcome State Fault Refusal := memWrite 0x00 0x03 s

end Sys2Proof.Machine
end

