-- ==== Sys2Proof/Machine/CoreStep.lean ====
section
/-! DEFINITION. The core step: the one atomic step that performs the pending command (10_state.md R38). -/

namespace Sys2Proof.Machine

/-- The body of a command (10_state.md R38). -/
def commandBody (c : Command) (s : State) : State :=
  match c with
  | .encPing => bodyEncPing s
  | .encGetpos => bodyEncGetpos s
  | .encMove => bodyEncMove s
  | .decPing => bodyDecPing s
  | .decMoveack => bodyDecMoveack s
  | .decPos => bodyDecPos s
  | .csumClr => bodyCsumClr s
  | .illegal => bodyIllegal s

/-- The core step: the opening step, the body of the command whose code is in PENDING, the closing step, which also
follows a raise (10_state.md R38). It leaves PENDING as it is (log 21). -/
def coreStep (s : State) : State :=
  closeCommand (commandBody (commandOf s.pending) (openCommand s))

/-- A turn of the core: its step while BUSY = 1; "While STATUS.BUSY = 0 the core has no step" (10_state.md R38; log 4). -/
def coreTurn (s : State) : State := if s.status.busy then coreStep s else s

end Sys2Proof.Machine
end

