-- ==== Sys2Proof/Machine/Link.lean ====
section
/-! DEFINITION. The wire rows: what it does to FCODEC that the host carries a frame to or from the serial link
(20_memory.md R58; log 10, log 11). -/

namespace Sys2Proof.Machine

/-- The host sends a command frame on the link. "FCODEC never drives or reads the serial link" (20_memory.md R58) and
the host's reads of TX_BUF have no side effect (R45), so FCODEC does not change (log 10). -/
def frameSent (s : State) : Host.Outcome State Fault Refusal := .next s

/-- FRAME_PING is sent (30_encoding.md R66). -/
def execFramePing (_a _c : Byte) (s : State) : Host.Outcome State Fault Refusal := frameSent s

/-- FRAME_GETPOS is sent (30_encoding.md R67). -/
def execFrameGetpos (_a _c : Byte) (s : State) : Host.Outcome State Fault Refusal := frameSent s

/-- FRAME_MOVE is sent (30_encoding.md R68). -/
def execFrameMove (_a : Byte) (_d : BitVec 1) (_s _t : BitVec 4) (_g : Byte) (_p : BitVec 32) (_c : Byte) (st : State) :
    Host.Outcome State Fault Refusal := frameSent st

/-- FRAME_STATUS_REPLY is received (30_encoding.md R70): the host "stores the reply bytes it receives in RX_BUF[0..] and
their count in RX_LEN" (20_memory.md R58; log 11). -/
def execFrameStatusReply (a e r : Byte) (s : State) : Host.Outcome State Fault Refusal := rxLoad [0xFB, a, e, r] s

/-- FRAME_POS_REPLY is received (30_encoding.md R71): the host stores its ten bytes in RX_BUF and their count in RX_LEN
(20_memory.md R58; log 11). -/
def execFramePosReply (a e : Byte) (k : BitVec 32) (v : BitVec 16) (z : Byte) (s : State) :
    Host.Outcome State Fault Refusal :=
  rxLoad [0xFB, a, e, byteAt k 3, byteAt k 2, byteAt k 1, byteAt k 0, byteAt v 1, byteAt v 0, z] s

end Sys2Proof.Machine
end

