-- ==== Sys2Proof/Machine/Dispatch.lean ====
section
/-! DEFINITION. The dispatch: one arm per row of spec/opcode_table.json. -/

namespace Sys2Proof.Machine

def exec (i : Instr) (s : State) : Host.Outcome State Fault Refusal :=
  match i with
  | .encPing => Sys2Proof.Machine.execEncPing s
  | .encGetpos => Sys2Proof.Machine.execEncGetpos s
  | .encMove => Sys2Proof.Machine.execEncMove s
  | .decPing => Sys2Proof.Machine.execDecPing s
  | .decMoveack => Sys2Proof.Machine.execDecMoveack s
  | .decPos => Sys2Proof.Machine.execDecPos s
  | .csumClr => Sys2Proof.Machine.execCsumClr s
  | .cmdIllegal d => Sys2Proof.Machine.execCmdIllegal d s
  | .csumIn d => Sys2Proof.Machine.execCsumIn d s
  | .wr a d => Sys2Proof.Machine.execWr a d s
  | .rd a d => Sys2Proof.Machine.execRd a d s
  | .framePing a c => Sys2Proof.Machine.execFramePing a c s
  | .frameGetpos a c => Sys2Proof.Machine.execFrameGetpos a c s
  | .frameMove a d h t g p c => Sys2Proof.Machine.execFrameMove a d h t g p c s
  | .frameStatusReply a e r => Sys2Proof.Machine.execFrameStatusReply a e r s
  | .framePosReply a e k v z => Sys2Proof.Machine.execFramePosReply a e k v z s

end Sys2Proof.Machine
end

