-- ==== Sys2Proof/Machine/Fetch.lean ====
section
/-! DEFINITION. What happens next: taking the oldest event of the schedule and decoding it (20_memory.md R53; log 1),
and placing an instruction there. -/

namespace Sys2Proof.Machine

/-- What the schedule says happens next, with the state from which it happens. -/
inductive Turn where
  /-- The host's packet decodes to this instruction. -/
  | instr (i : Instr) (s : State)
  /-- The core has its turn. -/
  | core (s : State)
  /-- Reset is asserted. -/
  | reset (s : State)
  /-- The packet decodes to nothing. -/
  | undecodable (e : DecodeError)
deriving DecidableEq, Repr

/-- The next turn. When the schedule is empty the host issues nothing more, and only the core is left to move
(10_state.md R38, 70_reset_and_hazards.md R129, R130; log 3). -/
def nextTurn (s : State) : Turn :=
  match s.events with
  | [] => .core s
  | .core :: rest => .core { s with events := rest }
  | .reset :: rest => .reset { s with events := rest }
  | .packet p :: rest =>
    match decode p with
    | .ok i => .instr i { s with events := rest }
    | .error e => .undecodable e

/-- The state with a packet scheduled before everything else. -/
def scheduleFirst (p : Packet) (s : State) : State := { s with events := .packet p :: s.events }

/-- The state with the instruction of an opcode-table word scheduled before everything else (log 2, log 13); as it was
where the bits are no packet. -/
def scheduleTableWord (nbits w : Nat) (s : State) : State :=
  match packetOfTableWord nbits w with
  | some p => scheduleFirst p s
  | none => s

end Sys2Proof.Machine
end

