-- ==== Sys2Proof/Machine/Step.lean ====
section
/-! DEFINITION. The step of the machine: one element of the single total order of host transactions, core steps and
resets (20_memory.md R53). -/

namespace Sys2Proof.Machine

/-- One step: the next turn of the schedule (log 1). -/
def step (s : State) : Host.Outcome State Fault Refusal :=
  match nextTurn s with
  | .instr i t => exec i t
  | .core t => .next (coreTurn t)
  | .reset t => .next (resetRegisters t)
  | .undecodable e => .refused (.undecodable e)

/-- The state in which the next step runs the instruction whose bits are `w` as the opcode table numbers them: it is
placed first in the schedule, and nothing else changes (log 2). -/
def State.withFetchWord (s : State) (nbits w : Nat) : State := scheduleTableWord nbits w s

end Sys2Proof.Machine
end

