-- ==== Sys2Proof/Safety.lean ====
section
/-! DEFINITION. What counts as a safe run: a schedule that breaks no hazard rule (70_reset_and_hazards.md R123, R124),
the end of a run (R130), and the invariant of the registers. -/

namespace Sys2Proof

open Machine

/-- Is the instruction a write of a command code to CMD? Every such write starts a command (10_state.md R20). -/
def startsCommand : Instr → Bool
  | .encPing | .encGetpos | .encMove | .decPing | .decMoveack | .decPos | .csumClr | .cmdIllegal _ => true
  | .wr a _ => regAt a == .cmd
  | .csumIn _ | .rd _ _ | .framePing _ _ | .frameGetpos _ _ | .frameMove _ _ _ _ _ _ _ | .frameStatusReply _ _ _
  | .framePosReply _ _ _ _ _ => false

/-- Is the instruction a host write, or made of host writes? While BUSY = 1 it is a hazard violation
(70_reset_and_hazards.md R123, R124). -/
def writesRegisters : Instr → Bool
  | .encPing | .encGetpos | .encMove | .decPing | .decMoveack | .decPos | .csumClr | .cmdIllegal _ | .csumIn _ | .wr _ _
  | .frameStatusReply _ _ _ | .framePosReply _ _ _ _ _ => true
  | .rd _ _ | .framePing _ _ | .frameGetpos _ _ | .frameMove _ _ _ _ _ _ _ => false

/-- A schedule that breaks no hazard rule from BUSY = `busy` on, decided from the schedule alone: no write is issued
between a CMD write and the core step or reset that ends it, and every packet decodes. -/
def hazardFree : Bool → List Event → Bool
  | _, [] => true
  | _, .core :: rest => hazardFree false rest
  | _, .reset :: rest => hazardFree false rest
  | busy, .packet p :: rest =>
    match decode p with
    | .error _ => false
    | .ok i => !(busy && writesRegisters i) && hazardFree (busy || startsCommand i) rest

/-- Is the instruction the sending of a command frame on the link, which is no bus transaction (20_memory.md R58)? -/
def sendsFrame : Instr → Bool
  | .framePing _ _ | .frameGetpos _ _ | .frameMove _ _ _ _ _ _ _ => true
  | .encPing | .encGetpos | .encMove | .decPing | .decMoveack | .decPos | .csumClr | .cmdIllegal _ | .csumIn _ | .wr _ _
  | .rd _ _ | .frameStatusReply _ _ _ | .framePosReply _ _ _ _ _ => false

/-- Does the event issue a host transaction (10_state.md R15)? A turn of the core and a reset do not
(70_reset_and_hazards.md R118), nor does a sent command frame; a received reply is made of host writes. Bytes that are no
frame count as one, so that no run ends before them (log 23). -/
def isTransaction : Event → Bool
  | .core | .reset => false
  | .packet p =>
    match decode p with
    | .ok i => !sendsFrame i
    | .error _ => true

/-- A run has ended: "the host has issued its last transaction, and STATUS.BUSY = 0" (70_reset_and_hazards.md R130). Turns
of the core and resets may still be ahead. -/
def runEnded (s : State) : Bool := s.events.all (fun e => !isTransaction e) && !s.status.busy

/-- The state at the first point within `k` steps at which the run has ended; none if it stops or goes on. -/
def runToEnd : Nat → State → Option State
  | 0, s => if runEnded s then some s else none
  | k + 1, s =>
    if runEnded s then some s
    else
      match step s with
      | .next t => runToEnd k t
      | .fault _ => none
      | .refused _ => none

/-- "The final state is the register state of 10_state.md at that point" (70_reset_and_hazards.md R130): what a reset after
that point does is no part of it, and a run that stops has none. One step more than the schedule is long is enough: the last
is the core's when the host issues nothing more (log 3). -/
def finalState (s : State) : Option State := runToEnd (s.events.length + 1) s

/-- TX_LEN and the frame in TX_BUF: no frame, a four-byte frame with the ping or get-position opcode, or an eleven-byte
frame with the move opcode; a frame starts with the HEADER and ends in the checksum of its other bytes, and a move
frame's reserved bits are 0 and its acceleration is at most 32 (10_state.md R28, 41_encoder.md R86, R87, R89). -/
def txFrameOk (s : State) : Prop :=
  s.txLen = 0 ∨
  (s.txLen = 4 ∧ s.txBuf[0] = 0xFA ∧ (s.txBuf[2] = 0x3A ∨ s.txBuf[2] = 0x30) ∧
    s.txBuf[3] = checksum (s.txBuf.toList.take 3)) ∨
  (s.txLen = 11 ∧ s.txBuf[0] = 0xFA ∧ s.txBuf[2] = 0xFD ∧ s.txBuf[3].extractLsb' 4 3 = 0#3 ∧
    s.txBuf[4].extractLsb' 4 4 = 0#4 ∧ s.txBuf[5].toNat ≤ 32 ∧ s.txBuf[10] = checksum (s.txBuf.toList.take 10))

/-- STATUS presents no result beside an error, and no two results: ACK and POS_VALID are 0 unless ERR is NONE, and not
both are 1 (10_state.md R19, 42_decoder.md R101). -/
def flagsOk (f : Status) : Prop :=
  (f.err ≠ .none → f.ack = false ∧ f.posValid = false) ∧ ¬(f.ack = true ∧ f.posValid = true)

/-- POS_RESULT is what one of the two formulas gives for POS_CARRY and POS_VALUE (10_state.md R36, 42_decoder.md R95). -/
def positionOk (p : Position) : Prop :=
  p.result.toInt = formulaA p.carry.toInt p.value.toNat ∨ p.result.toInt = formulaB p.carry.toInt p.value.toNat

/-- The invariant of FCODEC's registers. -/
def RegistersOk (s : State) : Prop :=
  txFrameOk s ∧ flagsOk s.status ∧ positionOk s.pos

end Sys2Proof
end

