-- ==== Sys2Proof/WellFormed.lean ====
section
/-! DEFINITION. Well-formed instructions: the terms that stand for a row of the opcode table. Field widths are in the
types; what is left is the table's order (30_encoding.md R61) and what a command frame's fields must be (R66 to R69). -/

namespace Sys2Proof

/-- The codes that the seven command rows match before the illegal-CMD row (30_encoding.md R61, R63). -/
def isCommandCode (d : Byte) : Bool := 1 ≤ d.toNat && d.toNat ≤ 7

/-- Is the instruction one that the table's rows give? An illegal CMD write has no command's code, a generic write is
to neither CMD nor CSUM_IN (30_encoding.md R61), a command frame ends in its checksum (R66 to R68), and a move frame's
acceleration is 0 to 32 (R69). `step` does not test it (log 20). -/
def Instr.wf : Instr → Bool
  | .encPing | .encGetpos | .encMove | .decPing | .decMoveack | .decPos | .csumClr => true
  | .cmdIllegal d => !isCommandCode d
  | .csumIn _ => true
  | .wr a _ => a != 0x00 && a != 0x0F
  | .rd _ _ => true
  | .framePing a c => c == Machine.checksum [0xFA, a, 0x3A]
  | .frameGetpos a c => c == Machine.checksum [0xFA, a, 0x30]
  | .frameMove a d s t g p c =>
    g.toNat ≤ 32 &&
      c == Machine.checksum [0xFA, a, 0xFD, d ++ 0#3 ++ s, 0#4 ++ t, g,
        Machine.byteAt p 3, Machine.byteAt p 2, Machine.byteAt p 1, Machine.byteAt p 0]
  | .frameStatusReply _ _ _ => true
  | .framePosReply _ _ _ _ _ => true

end Sys2Proof
end

