-- ==== Sys2Proof/Certificates/Slice0/Obligations.lean ====
section
/-! DEFINITION. The statements about FCODEC for the provers. Each says which rule of spec/ it formalises. A command is two
moments (10_state.md R20, R38): `exec` of its CMD write, and `coreStep`, which performs it. -/

open Sys2Proof Sys2Proof.Machine

/-! ### Encoding -/

/-- Decode and encode agree on every well-formed instruction, host rows and wire rows, at every operand value. -/
def Obligations.DecodeOfEncodeIsTheInstruction : Prop :=
  ∀ i : Instr, i.wf = true → decode (encode i) = .ok i

/-- 30_encoding.md R59: every 17-bit word decodes to exactly one well-formed transaction, which encodes back to it;
`W=1, A=a, D=d` performs MemWrite(a, 1, d) and `W=0, A=a` performs MemRead(a, 1). -/
def Obligations.EveryHostWordIsOneTransaction : Prop :=
  (∀ w : BitVec 17, ∃ i, decode (.host w) = .ok i ∧ i.wf = true ∧ encode i = .host w) ∧
  (∀ a d : Byte, ∃ i, decode (.host (1#1 ++ a ++ d)) = .ok i ∧ ∀ s, exec i s = memWrite a d s) ∧
  (∀ a d : Byte, ∃ i, decode (.host (0#1 ++ a ++ d)) = .ok i ∧ ∀ s, exec i s = .next (memRead a s))

/-- A frame that decodes is the encoding of what it decodes to: no bit of a frame is dropped (30_encoding.md R66 to
R71). -/
def Obligations.DecodedLinkFrameEncodesBack : Prop :=
  ∀ (bs : List Byte) (i : Instr), decode (.link bs) = .ok i → encode i = .link bs

/-- Words and frames written out in the spec decode to what it says they are (95_test_vectors.md). -/
def Obligations.WordsOfTheSpecDecodeRight : Prop :=
  decode (.host 0x10301) = .ok (.wr 0x03 0x01) ∧ decode (.host 0x10002) = .ok .encGetpos ∧
  decode (.host 0x00100) = .ok (.rd 0x01 0x00) ∧ decode (.host 0x10FFA) = .ok (.csumIn 0xFA) ∧
  decode (.host 0x10008) = .ok (.cmdIllegal 0x08) ∧ decode (.link [0xFA, 0x01, 0x3A, 0x35]) = .ok (.framePing 0x01 0x35) ∧
  decode (.link [0xFB, 0x01, 0xFD, 0x00]) = .ok (.frameStatusReply 0x01 0xFD 0x00)

/-- A word of the opcode table, placed first, is what the next step runs (log 2, log 13). -/
def Obligations.StepRunsThePlacedTableWord : Prop :=
  ∀ (s : State) (nbits w : Nat) (i : Instr), decodeTableWord nbits w = some i →
    step (s.withFetchWord nbits w) = exec i s

/-! ### The step -/

/-- When the oldest event is a packet that decodes to `i`, the step is `exec i` in the state without that event. -/
def Obligations.StepRunsTheDecodedInstruction : Prop :=
  ∀ (s : State) (p : Packet) (i : Instr) (rest : List Event), s.events = .packet p :: rest → decode p = .ok i →
    step s = exec i { s with events := rest }

/-- 10_state.md R38: the core's step is taken at its turn while BUSY = 1, and also when the host issues nothing more (the
last by the model's choice, log 3); while BUSY = 0 the core has no step, and nothing but the schedule changes (log 4). -/
def Obligations.CoreStepsOnlyWhileBusy : Prop :=
  (∀ (s : State) (rest : List Event), s.events = .core :: rest → s.status.busy = true →
    step s = .next (coreStep { s with events := rest })) ∧
  (∀ (s : State) (rest : List Event), s.events = .core :: rest → s.status.busy = false →
    step s = .next { s with events := rest }) ∧
  (∀ s : State, s.events = [] → s.status.busy = true → step s = .next (coreStep s)) ∧
  (∀ s : State, s.events = [] → s.status.busy = false → step s = .next s)

/-- 70_reset_and_hazards.md R119: what each register holds after reset, by name and as the host reads it. -/
def Obligations.ResetStateIsAllZero : Prop :=
  State.reset.status = { busy := false, posValid := false, ack := false, err := .none } ∧ State.reset.fmt = 0 ∧
  State.reset.params.devAddr = 0 ∧ State.reset.params.dir = 0 ∧ State.reset.params.accel = 0 ∧
  State.reset.params.speedHi = 0 ∧ State.reset.params.speedLo = 0 ∧ State.reset.params.pulses3 = 0 ∧
  State.reset.params.pulses2 = 0 ∧ State.reset.params.pulses1 = 0 ∧ State.reset.params.pulses0 = 0 ∧
  State.reset.txLen = 0 ∧ (∀ i : Fin 11, State.reset.txBuf[i] = 0) ∧ State.reset.rxLen = 0 ∧
  (∀ i : Fin 10, State.reset.rxBuf[i] = 0) ∧ State.reset.csumAcc = 0 ∧ State.reset.pos.carry = 0 ∧
  State.reset.pos.value = 0 ∧ State.reset.pos.result = 0 ∧ State.reset.pending = 0 ∧
  (∀ a : Byte, readByte a State.reset = 0)

/-- 70_reset_and_hazards.md R120 with R119's values: a reset in any state, pending command or not, leaves every register,
PENDING among them, as after reset; none of a pending command's effects take place, and old results are gone. -/
def Obligations.ResetAbandonsThePendingCommand : Prop :=
  ∀ (s : State) (rest : List Event), s.events = .reset :: rest →
    ∃ t, step s = .next t ∧ t.status = { busy := false, posValid := false, ack := false, err := .none } ∧ t.fmt = 0 ∧
      t.params = State.reset.params ∧ t.txLen = 0 ∧ t.txBuf = Vector.replicate 11 0 ∧ t.rxLen = 0 ∧
      t.rxBuf = Vector.replicate 10 0 ∧ t.csumAcc = 0 ∧ t.pos = { carry := 0, value := 0, result := 0 } ∧ t.pending = 0 ∧
      (∀ a, readByte a t = 0)

/-- The model's choice (log 9): a reset keeps what the host has read, the draws and the rest of the schedule, which are no
registers of FCODEC. -/
def Obligations.ResetKeepsWhatIsNoRegister : Prop :=
  ∀ (s : State) (rest : List Event), s.events = .reset :: rest →
    ∃ t, step s = .next t ∧ t.rdata = s.rdata ∧ t.draws = s.draws ∧ t.events = rest

/-- 70_reset_and_hazards.md R122's example, H14 of 95_test_vectors.md: ENC_MOVE right after reset is accepted and builds
`FA 00 FD 00 00 00 00 00 00 00 F7`. The model's choices in it: the placing of the word (log 2, its numbering log 13), and
that the second step, with an empty schedule, is the core's (log 3), where H14 waits. -/
def Obligations.EncMoveRightAfterResetIsAccepted : Prop :=
  ∃ t, Host.Core.run Sys2Proof.core 2 (State.reset.withFetchWord 24 0x10003) = .next t ∧ t.status.err = .none ∧
    t.status.busy = false ∧ t.txLen = 11 ∧
    t.txBuf = #v[0xFA, 0x00, 0xFD, 0x00, 0x00, 0x00, 0x00, 0x00, 0x00, 0x00, 0xF7]

/-! ### Registers and host transactions -/

/-- 10_state.md R18: the access key of every address. -/
def Obligations.AddressMapAccessKeys : Prop :=
  ∀ a : Byte, accessOf (regAt a) =
    if a.toNat = 0x00 ∨ a.toNat = 0x0F then .wo
    else if a.toNat = 0x01 ∨ a.toNat = 0x0C ∨ a.toNat = 0x0E ∨ 0x10 ≤ a.toNat ∧ a.toNat ≤ 0x1A ∨
        0x30 ≤ a.toNat ∧ a.toNat ≤ 0x35 ∨ 0x38 ≤ a.toNat ∧ a.toNat ≤ 0x3F then .ro
    else if 0x02 ≤ a.toNat ∧ a.toNat ≤ 0x0B ∨ a.toNat = 0x0D ∨ 0x20 ≤ a.toNat ∧ a.toNat ≤ 0x29 then .rw
    else .rsvd

/-- 10_state.md R18, R26, R39: what each address holds, reserved bits and reserved addresses reading 0, the lowest
address of a group its most significant byte. -/
def Obligations.AddressMapReads : Prop :=
  ∀ s : State,
    readByte 0x00 s = 0 ∧ readByte 0x01 s = statusByte s.status ∧ readByte 0x02 s = 0#7 ++ s.fmt ∧
    readByte 0x03 s = s.params.devAddr ∧ readByte 0x04 s = 0#7 ++ s.params.dir ∧ readByte 0x05 s = s.params.accel ∧
    readByte 0x06 s = s.params.speedHi ∧ readByte 0x07 s = s.params.speedLo ∧
    speedOf s.params = readByte 0x06 s ++ readByte 0x07 s ∧
    readByte 0x08 s = s.params.pulses3 ∧ readByte 0x09 s = s.params.pulses2 ∧ readByte 0x0A s = s.params.pulses1 ∧
    readByte 0x0B s = s.params.pulses0 ∧
    pulsesOf s.params = readByte 0x08 s ++ readByte 0x09 s ++ readByte 0x0A s ++ readByte 0x0B s ∧
    readByte 0x0C s = 0#4 ++ s.txLen ∧ readByte 0x0D s = 0#4 ++ s.rxLen ∧ readByte 0x0E s = s.csumAcc ∧
    readByte 0x0F s = 0 ∧
    (∀ i : Fin 11, readByte (BitVec.ofNat 8 (0x10 + i.val)) s = s.txBuf[i]) ∧
    (∀ i : Fin 10, readByte (BitVec.ofNat 8 (0x20 + i.val)) s = s.rxBuf[i]) ∧
    s.pos.carry = readByte 0x30 s ++ readByte 0x31 s ++ readByte 0x32 s ++ readByte 0x33 s ∧
    s.pos.value = readByte 0x34 s ++ readByte 0x35 s ∧
    s.pos.result = readByte 0x38 s ++ readByte 0x39 s ++ readByte 0x3A s ++ readByte 0x3B s ++ readByte 0x3C s ++
      readByte 0x3D s ++ readByte 0x3E s ++ readByte 0x3F s ∧
    (∀ a : Byte, 0x1B ≤ a.toNat ∧ a.toNat ≤ 0x1F ∨ 0x2A ≤ a.toNat ∧ a.toNat ≤ 0x2F ∨ a.toNat = 0x36 ∨ a.toNat = 0x37 ∨
      0x40 ≤ a.toNat → readByte a s = 0)

/-- 10_state.md R19's fields and 60_exceptions.md R102's numbers: the bits of the STATUS byte. -/
def Obligations.StatusByteLayout : Prop :=
  (∀ f : Status, (statusByte f).getLsbD 7 = f.busy ∧ (statusByte f).extractLsb' 5 2 = 0#2 ∧
    (statusByte f).getLsbD 4 = f.posValid ∧ (statusByte f).getLsbD 3 = f.ack ∧
    (statusByte f).extractLsb' 0 3 = errNumber f.err) ∧
  errNumber .none = 0 ∧ errNumber .validation = 1 ∧ errNumber .shortRead = 2 ∧ errNumber .malformed = 3 ∧
  errNumber .protoMismatch = 4 ∧ errNumber .illegalCmd = 5

/-- 10_state.md R20: while BUSY = 0 a CMD write of any of the 256 values latches it in PENDING, sets BUSY and changes
nothing else; a value with no command raises ILLEGAL_CMD at the core's step; while BUSY = 1 the write is a hazard
violation; a read of CMD returns 0x00. -/
def Obligations.CmdWriteOnlyLatches : Prop :=
  ∀ v : Byte, ∃ i, decode (.host (1#1 ++ 0x00#8 ++ v)) = .ok i ∧
    (∀ s : State, s.status.busy = false →
      exec i s = .next { s with pending := v, status := { s.status with busy := true } }) ∧
    (∀ s : State, s.pending = v → v.toNat = 0 ∨ 8 ≤ v.toNat → (coreStep s).status.err = .illegalCmd) ∧
    (∀ s : State, s.status.busy = true → exec i s = .fault .cmdWriteWhileBusy) ∧
    (∀ s : State, readByte 0x00 s = 0x00)

/-- 20_memory.md R46: what WR does at each kind of address while BUSY = 0, what it leaves unchanged, which writes are
idempotent and which are not, and that a write while BUSY = 1 is a hazard violation. -/
def Obligations.WrWritesOnlyItsRegister : Prop :=
  (∀ (s : State) (a v : Byte), s.status.busy = false →
    ∃ t, exec (.wr a v) s = .next t ∧
      (a = 0x00 → t = { s with pending := v, status := { s.status with busy := true } } ∧
        exec (.wr a v) t = .fault .cmdWriteWhileBusy) ∧
      (a = 0x0F → t = { s with csumAcc := BitVec.ofNat 8 (s.csumAcc.toNat + v.toNat) } ∧
        (v ≠ 0 → exec (.wr a v) t ≠ .next t)) ∧
      (accessOf (regAt a) = .rw →
        readByte a t = v &&& (if a = 0x02 ∨ a = 0x04 then 0x01 else if a = 0x0D then 0x0F else 0xFF) ∧
        (∀ b : Byte, b ≠ a → readByte b t = readByte b s) ∧
        t.status = s.status ∧ t.txLen = s.txLen ∧ t.txBuf = s.txBuf ∧ t.csumAcc = s.csumAcc ∧ t.pos = s.pos ∧
        t.pending = s.pending ∧ t.rdata = s.rdata ∧ t.draws = s.draws ∧ t.events = s.events ∧
        exec (.wr a v) t = .next t) ∧
      (accessOf (regAt a) = .ro ∨ accessOf (regAt a) = .rsvd → t = s)) ∧
  (∀ (s : State) (a v : Byte), s.status.busy = true → ∃ r, exec (.wr a v) s = .fault r)

/-- 20_memory.md R45: RD returns the register's value and changes no state, WO and reserved addresses return 0x00, and a
second read returns the same (the value returned is on rdata, log 5). The exception is R125's, stated on its own. -/
def Obligations.RdReturnsTheRegister : Prop :=
  ∀ (s : State) (a d : Byte), s.status.busy = false →
    exec (.rd a d) s = .next { s with rdata := readByte a s } ∧
    (accessOf (regAt a) = .wo ∨ accessOf (regAt a) = .rsvd → readByte a s = 0x00) ∧
    (∀ t, exec (.rd a d) s = .next t → exec (.rd a d) t = .next t)

/-- 70_reset_and_hazards.md R125: a read while BUSY = 1 completes with no side effect; STATUS bit 7 reads 1 exactly, and
nothing is said of any other bit. That a read takes one draw is the model's (log 6). -/
def Obligations.RdWhileBusyReadsOnlyBusyExactly : Prop :=
  ∀ (s : State) (a d : Byte), s.status.busy = true →
    ∃ b : Byte, exec (.rd a d) s = .next { s with rdata := b, draws := s.draws + 1 } ∧
      (a = 0x01 → b.getLsbD 7 = true)

/-- 70_reset_and_hazards.md R123: a write to CMD while BUSY = 1 faults, whatever the code. -/
def Obligations.CmdWriteWhileBusyFaults : Prop :=
  ∀ s : State, s.status.busy = true →
    exec .encPing s = .fault .cmdWriteWhileBusy ∧ exec .encGetpos s = .fault .cmdWriteWhileBusy ∧
    exec .encMove s = .fault .cmdWriteWhileBusy ∧ exec .decPing s = .fault .cmdWriteWhileBusy ∧
    exec .decMoveack s = .fault .cmdWriteWhileBusy ∧ exec .decPos s = .fault .cmdWriteWhileBusy ∧
    exec .csumClr s = .fault .cmdWriteWhileBusy ∧ (∀ d, exec (.cmdIllegal d) s = .fault .cmdWriteWhileBusy) ∧
    (∀ d, exec (.wr 0x00 d) s = .fault .cmdWriteWhileBusy)

/-- 70_reset_and_hazards.md R124: every other write while BUSY = 1 faults, to RO and reserved addresses too. -/
def Obligations.OtherWriteWhileBusyFaults : Prop :=
  ∀ s : State, s.status.busy = true →
    (∀ a d : Byte, a ≠ 0x00 → exec (.wr a d) s = .fault .writeWhileBusy) ∧
    (∀ d, exec (.csumIn d) s = .fault .writeWhileBusy)

/-! ### Checksum family -/

/-- 40_checksum.md R79: the checksum is the sum mod 256, 0x00 for the empty sequence, whatever the bytes' order. -/
def Obligations.ChecksumIsTheSumModulo256 : Prop :=
  (∀ bs : List Byte, (checksum bs).toNat = (bs.map BitVec.toNat).sum % 256) ∧ checksum [] = 0x00 ∧
  (∀ as bs : List Byte, as.Perm bs → checksum as = checksum bs)

/-- 40_checksum.md R83, items 3 and 4: append, and the checksum of a whole frame. -/
def Obligations.ChecksumOfExtendedBytes : Prop :=
  (∀ (bs : List Byte) (x : Byte), checksum (bs ++ [x]) = BitVec.ofNat 8 ((checksum bs).toNat + x.toNat)) ∧
  (∀ bs : List Byte, checksum (withChecksum bs) = BitVec.ofNat 8 (2 * (checksum bs).toNat))

/-- 40_checksum.md R80: CSUM_CLR. -/
def Obligations.CsumClrClearsTheAccumulator : Prop :=
  decode (.host 0x10007) = .ok .csumClr ∧
  (∀ s : State, s.status.busy = false →
    exec .csumClr s = .next { s with pending := 0x07, status := { s.status with busy := true } }) ∧
  (∀ s : State, s.pending = 0x07 →
    coreStep s =
      { s with csumAcc := 0x00, status := { busy := false, posValid := false, ack := false, err := .none } })

/-- 40_checksum.md R81: CSUM_IN adds its byte to the accumulator at the write and changes nothing else; while BUSY = 1 it
is a hazard violation. -/
def Obligations.CsumInAddsOneByte : Prop :=
  ∀ v : Byte, decode (.host (1#1 ++ 0x0F#8 ++ v)) = .ok (.csumIn v) ∧
    (∀ s : State, s.status.busy = false →
      exec (.csumIn v) s = .next { s with csumAcc := BitVec.ofNat 8 (s.csumAcc.toNat + v.toNat) }) ∧
    (∀ s : State, s.status.busy = true → exec (.csumIn v) s = .fault .writeWhileBusy)

/-- 40_checksum.md R82: CSUM_CLR, waiting (any number of STATUS reads before and after the core's step) and the bytes `bs`
written to CSUM_IN leave checksum(bs) in CSUM_ACC, from any idle state; so do the bytes alone right after reset. -/
def Obligations.AccumulatorHoldsTheChecksum : Prop :=
  (∀ (s : State) (before after : Nat) (bs : List Byte) (rest : List Event), s.status.busy = false →
    s.events =
      .packet (.host 0x10007) :: (List.replicate before (.packet (.host 0x00100)) ++
        .core :: (List.replicate after (.packet (.host 0x00100)) ++
          (bs.map (fun b => .packet (.host (1#1 ++ 0x0F#8 ++ b))) ++ rest))) →
    ∃ t, Host.Core.run Sys2Proof.core (1 + before + 1 + after + bs.length) s = .next t ∧ t.csumAcc = checksum bs ∧
      t.status.busy = false ∧ t.events = rest) ∧
  (∀ bs : List Byte, ∃ t,
    Host.Core.run Sys2Proof.core bs.length
      { State.reset with events := bs.map (fun b => .packet (.host (1#1 ++ 0x0F#8 ++ b))) } = .next t ∧
      t.csumAcc = checksum bs)

/-! ### Encoder family -/

/-- 41_encoder.md R84: ENC_PING, with its whole next state. -/
def Obligations.EncPingBuildsThePingFrame : Prop :=
  decode (.host 0x10001) = .ok .encPing ∧
  (∀ s : State, s.status.busy = false →
    exec .encPing s = .next { s with pending := 0x01, status := { s.status with busy := true } }) ∧
  (∀ a : Byte, checksum [0xFA, a, 0x3A] = BitVec.ofNat 8 (0x134 + a.toNat)) ∧
  (∀ s : State, s.pending = 0x01 →
    coreStep s =
      { s with
        txBuf := (((s.txBuf.set 0 0xFA).set 1 s.params.devAddr).set 2 0x3A).set 3 (checksum [0xFA, s.params.devAddr, 0x3A])
        txLen := 4
        status := { busy := false, posValid := false, ack := false, err := .none } })

/-- 41_encoder.md R85: ENC_GETPOS, with its whole next state. -/
def Obligations.EncGetposBuildsTheGetPositionFrame : Prop :=
  decode (.host 0x10002) = .ok .encGetpos ∧
  (∀ s : State, s.status.busy = false →
    exec .encGetpos s = .next { s with pending := 0x02, status := { s.status with busy := true } }) ∧
  (∀ a : Byte, checksum [0xFA, a, 0x30] = BitVec.ofNat 8 (0x12A + a.toNat)) ∧
  (∀ s : State, s.pending = 0x02 →
    coreStep s =
      { s with
        txBuf := (((s.txBuf.set 0 0xFA).set 1 s.params.devAddr).set 2 0x30).set 3 (checksum [0xFA, s.params.devAddr, 0x30])
        txLen := 4
        status := { busy := false, posValid := false, ack := false, err := .none } })

/-- 41_encoder.md R86 and 60_exceptions.md R103: ENC_MOVE with a speed above 1600 or an acceleration above 32 leaves
VALIDATION and TX_LEN 0 and changes nothing else; with neither it raises nothing. -/
def Obligations.EncMoveRejectsParametersOutOfRange : Prop :=
  ∀ s : State, s.pending = 0x03 →
    (s.params.speedHi.toNat * 256 + s.params.speedLo.toNat > 1600 ∨ s.params.accel.toNat > 32 →
      coreStep s =
        { s with
          txLen := 0
          status := { busy := false, posValid := false, ack := false, err := .validation } }) ∧
    (s.params.speedHi.toNat * 256 + s.params.speedLo.toNat ≤ 1600 → s.params.accel.toNat ≤ 32 →
      (coreStep s).status.err = .none)

/-- 41_encoder.md R87 and 30_encoding.md R69: ENC_MOVE with its parameters in range, with its whole next state. -/
def Obligations.EncMoveBuildsTheMoveFrame : Prop :=
  decode (.host 0x10003) = .ok .encMove ∧
  (∀ s : State, s.status.busy = false →
    exec .encMove s = .next { s with pending := 0x03, status := { s.status with busy := true } }) ∧
  (∀ s : State, s.pending = 0x03 → s.params.speedHi.toNat * 256 + s.params.speedLo.toNat ≤ 1600 →
    s.params.accel.toNat ≤ 32 →
    let byte3 : Byte := s.params.dir ++ 0#3 ++ (s.params.speedHi ++ s.params.speedLo).extractLsb' 4 4
    let byte4 : Byte := 0#4 ++ (s.params.speedHi ++ s.params.speedLo).extractLsb' 0 4
    coreStep s =
      { s with
        txBuf := #v[0xFA, s.params.devAddr, 0xFD, byte3, byte4, s.params.accel, s.params.pulses3, s.params.pulses2,
          s.params.pulses1, s.params.pulses0,
          checksum [0xFA, s.params.devAddr, 0xFD, byte3, byte4, s.params.accel, s.params.pulses3, s.params.pulses2,
            s.params.pulses1, s.params.pulses0]]
        txLen := 11
        status := { busy := false, posValid := false, ack := false, err := .none } })

/-- 41_encoder.md R88: two accepted speeds that agree modulo 256 give the same frame, so the frame is that of the speed
modulo 256. -/
def Obligations.EncMoveCarriesOnlyTheLowSpeedByte : Prop :=
  (∀ (s : State) (hi : Byte), s.pending = 0x03 → s.params.accel.toNat ≤ 32 →
    s.params.speedHi.toNat * 256 + s.params.speedLo.toNat ≤ 1600 → hi.toNat * 256 + s.params.speedLo.toNat ≤ 1600 →
    (coreStep { s with params := { s.params with speedHi := hi } }).txBuf = (coreStep s).txBuf ∧
    (coreStep s).txBuf[3].extractLsb' 0 4 = s.params.speedLo.extractLsb' 4 4 ∧
    (coreStep s).txBuf[4].extractLsb' 0 4 = s.params.speedLo.extractLsb' 0 4)

/-- 30_encoding.md R66, R67, R68: the frame an encode command leaves in TX_BUF, of the length in TX_LEN, is the wire frame
of its row, and it is well-formed. -/
def Obligations.EncodersBuildTheWireFrames : Prop :=
  ∀ s : State,
    (s.pending = 0x01 → ∃ c, Instr.wf (.framePing s.params.devAddr c) = true ∧
      encode (.framePing s.params.devAddr c) = .link ((coreStep s).txBuf.toList.take (coreStep s).txLen.toNat)) ∧
    (s.pending = 0x02 → ∃ c, Instr.wf (.frameGetpos s.params.devAddr c) = true ∧
      encode (.frameGetpos s.params.devAddr c) = .link ((coreStep s).txBuf.toList.take (coreStep s).txLen.toNat)) ∧
    (s.pending = 0x03 → (coreStep s).status.err = .none →
      ∃ h t c, Instr.wf (.frameMove s.params.devAddr s.params.dir h t s.params.accel (pulsesOf s.params) c) = true ∧
        h = s.params.speedLo.extractLsb' 4 4 ∧ t = s.params.speedLo.extractLsb' 0 4 ∧
        encode (.frameMove s.params.devAddr s.params.dir h t s.params.accel (pulsesOf s.params) c) =
          .link ((coreStep s).txBuf.toList.take (coreStep s).txLen.toNat))

/-! ### Decoder family -/

/-- 42_decoder.md R91: DEC_PING, with its whole next state. -/
def Obligations.DecPingDecodesTheStatusReply : Prop :=
  decode (.host 0x10004) = .ok .decPing ∧
  (∀ s : State, s.status.busy = false →
    exec .decPing s = .next { s with pending := 0x04, status := { s.status with busy := true } }) ∧
  (∀ s : State, s.pending = 0x04 →
    coreStep s =
      { s with
        status :=
          if s.rxLen.toNat < 4 then { busy := false, posValid := false, ack := false, err := .shortRead }
          else if s.rxBuf[0] ≠ 0xFB then { busy := false, posValid := false, ack := false, err := .malformed }
          else { busy := false, posValid := false, ack := true, err := .none } })

/-- 42_decoder.md R92: DEC_MOVEACK, with its whole next state. -/
def Obligations.DecMoveackDecodesTheAcknowledgment : Prop :=
  decode (.host 0x10005) = .ok .decMoveack ∧
  (∀ s : State, s.status.busy = false →
    exec .decMoveack s = .next { s with pending := 0x05, status := { s.status with busy := true } }) ∧
  (∀ s : State, s.pending = 0x05 →
    coreStep s =
      { s with
        status :=
          if s.rxLen.toNat < 4 then { busy := false, posValid := false, ack := false, err := .shortRead }
          else if s.rxBuf[0] ≠ 0xFB then { busy := false, posValid := false, ack := false, err := .malformed }
          else { busy := false, posValid := false, ack := decide (s.rxBuf[3] = 0x01), err := .none } })

/-- 42_decoder.md R93 and R109's order: DEC_POS on an invalid reply, with its whole next state. -/
def Obligations.DecPosRejectsInvalidReplies : Prop :=
  ∀ s : State, s.pending = 0x06 →
    (s.rxLen.toNat < 10 →
      coreStep s = { s with status := { busy := false, posValid := false, ack := false, err := .shortRead } }) ∧
    (10 ≤ s.rxLen.toNat → s.rxBuf[0] ≠ 0xFB →
      coreStep s = { s with status := { busy := false, posValid := false, ack := false, err := .malformed } }) ∧
    (10 ≤ s.rxLen.toNat → s.rxBuf[0] = 0xFB → s.rxBuf[1] ≠ s.params.devAddr →
      coreStep s = { s with status := { busy := false, posValid := false, ack := false, err := .protoMismatch } })

/-- 42_decoder.md R94, R95, R96, R97: DEC_POS on a valid reply, with its whole next state. The two's-complement reading of
the carry is log 14's, the formulas' exact integers log 15's. -/
def Obligations.DecPosDecodesThePosition : Prop :=
  decode (.host 0x10006) = .ok .decPos ∧
  (∀ s : State, s.status.busy = false →
    exec .decPos s = .next { s with pending := 0x06, status := { s.status with busy := true } }) ∧
  (∀ s : State, s.pending = 0x06 → 10 ≤ s.rxLen.toNat → s.rxBuf[0] = 0xFB → s.rxBuf[1] = s.params.devAddr →
    let carry : BitVec 32 := s.rxBuf[3] ++ s.rxBuf[4] ++ s.rxBuf[5] ++ s.rxBuf[6]
    let value : BitVec 16 := s.rxBuf[7] ++ s.rxBuf[8]
    let pos : Int :=
      if s.fmt = 0 then carry.toInt * 360 + (value.toNat * 22 / 1000 : Nat) else carry.toInt * 16383 + (value.toNat : Int)
    coreStep s =
      { s with
        pos := { carry := carry, value := value, result := BitVec.ofInt 64 pos }
        status := { busy := false, posValid := true, ack := false, err := .none } })

/-- 42_decoder.md R98: the range of both formulas, both ends reached, and POS_RESULT exactly the position. -/
def Obligations.PositionResultIsExact : Prop :=
  (∀ (carry : BitVec 32) (value : BitVec 16),
    -773094113280 ≤ formulaA carry.toInt value.toNat ∧ formulaA carry.toInt value.toNat ≤ 773094114361 ∧
    -35182224605184 ≤ formulaB carry.toInt value.toNat ∧ formulaB carry.toInt value.toNat ≤ 35182224654336 ∧
    (∀ fmt : BitVec 1,
      (BitVec.ofInt 64 (positionOf fmt carry.toInt value.toNat)).toInt = positionOf fmt carry.toInt value.toNat)) ∧
  formulaA (0x80000000#32).toInt 0 = -773094113280 ∧ formulaA (0x7FFFFFFF#32).toInt 65535 = 773094114361 ∧
  formulaB (0x80000000#32).toInt 0 = -35182224605184 ∧ formulaB (0x7FFFFFFF#32).toInt 65535 = 35182224654336

/-- 42_decoder.md R96 and R97: the rounding of formula A and the collision of formula B, at the spec's own examples. -/
def Obligations.PositionFormulaCornerCases : Prop :=
  (∀ (carry : Int) (value : BitVec 16), 0 ≤ formulaA carry value.toNat - carry * 360 ∧
    formulaA carry value.toNat - carry * 360 ≤ 1441 ∧
    1000 * (formulaA carry value.toNat - carry * 360) ≤ value.toNat * 22 ∧
    value.toNat * 22 < 1000 * (formulaA carry value.toNat - carry * 360) + 1000) ∧
  formulaA 0 45 = 0 ∧ formulaA 0 46 = 1 ∧ formulaA 0 65535 = 1441 ∧ formulaA (-1) 1 = -360 ∧
  formulaB 1 0 = 16383 ∧ formulaB 0 16383 = 16383

/-- 30_encoding.md R73: changing a byte that a decode command does not read changes nothing but that byte. -/
def Obligations.UnreadReplyBytesDoNotMatter : Prop :=
  ∀ (s : State) (i : Fin 10) (v : Byte),
    (s.pending = 0x04 ∧ 1 ≤ i.val ∨ s.pending = 0x05 ∧ (i.val = 1 ∨ i.val = 2 ∨ 4 ≤ i.val) ∨
      s.pending = 0x06 ∧ (i.val = 2 ∨ i.val = 9)) →
    coreStep { s with rxBuf := s.rxBuf.set i v } = { coreStep s with rxBuf := s.rxBuf.set i v }

/-! ### Errors, flags and what commands leave alone -/

/-- 60_exceptions.md R108: a write of a code no command has is CMD_ILLEGAL; it is accepted, and the core step raises
ILLEGAL_CMD and changes no other state. -/
def Obligations.IllegalCommandRaisesIllegalCmd : Prop :=
  (∀ d : Byte, d.toNat = 0 ∨ 8 ≤ d.toNat →
    decode (.host (1#1 ++ 0x00#8 ++ d)) = .ok (.cmdIllegal d) ∧
    (∀ s : State, s.status.busy = false →
      exec (.cmdIllegal d) s = .next { s with pending := d, status := { s.status with busy := true } })) ∧
  (∀ s : State, s.pending.toNat = 0 ∨ 8 ≤ s.pending.toNat →
    coreStep s = { s with status := { busy := false, posValid := false, ack := false, err := .illegalCmd } })

/-- 60_exceptions.md R109, with R102's column "raised by": each error code is left by exactly the command and cause it
names, the first its checks reach. -/
def Obligations.ErrorCodesHaveTheirCauses : Prop :=
  ∀ s : State,
    let frame := if s.pending = 0x06 then 10 else 4
    let decodes := s.pending = 0x04 ∨ s.pending = 0x05 ∨ s.pending = 0x06
    ((coreStep s).status.err = .validation ↔
      s.pending = 0x03 ∧ (s.params.speedHi.toNat * 256 + s.params.speedLo.toNat > 1600 ∨ s.params.accel.toNat > 32)) ∧
    ((coreStep s).status.err = .shortRead ↔ decodes ∧ s.rxLen.toNat < frame) ∧
    ((coreStep s).status.err = .malformed ↔ decodes ∧ frame ≤ s.rxLen.toNat ∧ s.rxBuf[0] ≠ 0xFB) ∧
    ((coreStep s).status.err = .protoMismatch ↔
      s.pending = 0x06 ∧ 10 ≤ s.rxLen.toNat ∧ s.rxBuf[0] = 0xFB ∧ s.rxBuf[1] ≠ s.params.devAddr) ∧
    ((coreStep s).status.err = .illegalCmd ↔ s.pending.toNat = 0 ∨ 8 ≤ s.pending.toNat)

/-- 60_exceptions.md R107: errors are precise. A command that raises leaves exactly the opening step's flags, the error code,
BUSY = 0 and, for ENC_MOVE alone, TX_LEN = 0; everything else, the offending input with it, stays. -/
def Obligations.ErrorsArePrecise : Prop :=
  ∀ (s : State) (e : ErrCode), (coreStep s).status.err = e → e ≠ .none →
    coreStep s =
      { s with
        txLen := if s.pending = 0x03 then 0 else s.txLen
        status := { busy := false, posValid := false, ack := false, err := e } }

/-- 10_state.md R19 and 42_decoder.md R101: after a core step BUSY is 0, POS_VALID is 1 iff the command was DEC_POS and it
succeeded, ACK is 1 only after DEC_PING or DEC_MOVEACK, and an error leaves both 0 and the position as it was. -/
def Obligations.NoResultBesideAnError : Prop :=
  ∀ s : State,
    (coreStep s).status.busy = false ∧
    ((coreStep s).status.posValid = true ↔ s.pending = 0x06 ∧ (coreStep s).status.err = .none) ∧
    ((coreStep s).status.ack = true → s.pending = 0x04 ∨ s.pending = 0x05) ∧
    ((coreStep s).status.err ≠ .none →
      (coreStep s).status.ack = false ∧ (coreStep s).status.posValid = false ∧ (coreStep s).pos = s.pos)

/-- 10_state.md R40: the registers each command may write, and those no command writes. -/
def Obligations.CommandsWriteOnlyTheirRegisters : Prop :=
  ∀ s : State,
    (coreStep s).fmt = s.fmt ∧ (coreStep s).params = s.params ∧ (coreStep s).rxLen = s.rxLen ∧
    (coreStep s).rxBuf = s.rxBuf ∧ (coreStep s).pending = s.pending ∧ (coreStep s).rdata = s.rdata ∧
    (coreStep s).draws = s.draws ∧ (coreStep s).events = s.events ∧
    (s.pending ≠ 0x01 → s.pending ≠ 0x02 → s.pending ≠ 0x03 →
      (coreStep s).txBuf = s.txBuf ∧ (coreStep s).txLen = s.txLen) ∧
    (s.pending = 0x01 ∨ s.pending = 0x02 →
      ∀ (j : Nat) (h : j < 11), 4 ≤ j → (coreStep s).txBuf[j] = s.txBuf[j]) ∧
    (s.pending ≠ 0x06 → (coreStep s).pos = s.pos) ∧
    (s.pending ≠ 0x07 → (coreStep s).csumAcc = s.csumAcc)

/-- 70_reset_and_hazards.md R126: while no command is pending, no step but a reset changes TX_BUF, TX_LEN, the position
groups or the result flags, and CSUM_ACC changes by a write to CSUM_IN only. -/
def Obligations.ResultsStayUntilTheNextCommand : Prop :=
  ∀ s t : State, s.status.busy = false → s.events.head? ≠ some .reset → step s = .next t →
    t.txBuf = s.txBuf ∧ t.txLen = s.txLen ∧ t.pos = s.pos ∧ t.status.posValid = s.status.posValid ∧
    t.status.ack = s.status.ack ∧ t.status.err = s.status.err ∧
    (t.csumAcc = s.csumAcc ∨
      ∃ d : Byte, s.events.head? = some (.packet (.host (1#1 ++ 0x0F#8 ++ d))) ∧ t.csumAcc = s.csumAcc + d)

/-- 10_state.md R32: only CSUM_IN writes, CSUM_CLR and reset change CSUM_ACC. -/
def Obligations.OnlyCsumInCsumClrAndResetChangeTheAccumulator : Prop :=
  ∀ s t : State, step s = .next t → t.csumAcc ≠ s.csumAcc →
    (∃ d : Byte, s.events.head? = some (.packet (.host (1#1 ++ 0x0F#8 ++ d))) ∧ t.csumAcc = s.csumAcc + d) ∨
    (s.status.busy = true ∧ s.pending = 0x07 ∧ (s.events.head? = some .core ∨ s.events = []) ∧ t.csumAcc = 0) ∨
    (s.events.head? = some .reset ∧ t.csumAcc = 0)

/-- 10_state.md R19, R37: BUSY rises only at a CMD write, which PENDING then holds; it falls only at the core's step or a
reset; while it stays 1 PENDING stays, so at most one command is pending. -/
def Obligations.BusyRisesAtCmdWritesAndFallsAtTheCore : Prop :=
  ∀ s t : State, step s = .next t →
    (s.status.busy = false → t.status.busy = true →
      s.events.head? = some (.packet (.host (1#1 ++ 0x00#8 ++ t.pending)))) ∧
    (s.status.busy = true → t.status.busy = false →
      s.events.head? = some .core ∨ s.events.head? = some .reset ∨ s.events = []) ∧
    (s.status.busy = true → t.status.busy = true → t.pending = s.pending)

/-! ### Wire rows -/

/-- A command frame on the link, well-formed or not, leaves FCODEC as it is, busy or not: "FCODEC never drives or reads
the serial link" (20_memory.md R58). That this is what the row means is the model's reading (log 10). -/
def Obligations.SentFramesLeaveFcodecUnchanged : Prop :=
  ∀ s : State, (∀ a c, exec (.framePing a c) s = .next s) ∧ (∀ a c, exec (.frameGetpos a c) s = .next s) ∧
    (∀ a d h t g p c, exec (.frameMove a d h t g p c) s = .next s)

/-- A status reply received while BUSY = 0 is in RX_BUF[0..3] with RX_LEN 4, the rest unchanged; while BUSY = 1 its
writes are a hazard violation (20_memory.md R58, 30_encoding.md R70, R78; the model's reading, log 11). -/
def Obligations.StatusReplyIsLoadedIntoRxBuf : Prop :=
  ∀ (s : State) (a e r : Byte),
    (s.status.busy = false →
      exec (.frameStatusReply a e r) s =
        .next { s with rxBuf := (((s.rxBuf.set 0 0xFB).set 1 a).set 2 e).set 3 r, rxLen := 4 }) ∧
    (s.status.busy = true → exec (.frameStatusReply a e r) s = .fault .writeWhileBusy)

/-- A position reply received while BUSY = 0 fills RX_BUF with RX_LEN 10, the rest unchanged; while BUSY = 1 its writes
are a hazard violation (20_memory.md R58, 30_encoding.md R71, R78; the model's reading, log 11). -/
def Obligations.PositionReplyIsLoadedIntoRxBuf : Prop :=
  ∀ (s : State) (a e : Byte) (k : BitVec 32) (v : BitVec 16) (z : Byte),
    (s.status.busy = false →
      exec (.framePosReply a e k v z) s =
        .next { s with
          rxBuf := #v[0xFB, a, e, k.extractLsb' 24 8, k.extractLsb' 16 8, k.extractLsb' 8 8, k.extractLsb' 0 8,
            v.extractLsb' 8 8, v.extractLsb' 0 8, z]
          rxLen := 10 }) ∧
    (s.status.busy = true → exec (.framePosReply a e k v z) s = .fault .writeWhileBusy)

/-- A reply that is received and then decoded gives back its fields: DEC_PING accepts every status reply, DEC_MOVEACK
accepts it iff its result byte is 0x01, and DEC_POS returns carry and value of a position reply from the queried device
and PROTO_MISMATCH from another (30_encoding.md R70 to R72). That a reply is received in one step, which leaves its bytes
in RX_BUF and their count in RX_LEN, is the model's choice (log 11, over 20_memory.md R58 and 30_encoding.md R78). -/
def Obligations.ReceivedRepliesDecodeToTheirFields : Prop :=
  (∀ (s : State) (a e r : Byte), s.status.busy = false →
    ∃ t, exec (.frameStatusReply a e r) s = .next t ∧
      (coreStep { t with pending := 0x04 }).status = { busy := false, posValid := false, ack := true, err := .none } ∧
      (coreStep { t with pending := 0x05 }).status =
        { busy := false, posValid := false, ack := decide (r = 0x01), err := .none }) ∧
  (∀ (s : State) (a e : Byte) (k : BitVec 32) (v : BitVec 16) (z : Byte), s.status.busy = false →
    ∃ t, exec (.framePosReply a e k v z) s = .next t ∧
      (a = s.params.devAddr →
        (coreStep { t with pending := 0x06 }).status =
            { busy := false, posValid := true, ack := false, err := .none } ∧
          (coreStep { t with pending := 0x06 }).pos.carry = k ∧ (coreStep { t with pending := 0x06 }).pos.value = v) ∧
      (a ≠ s.params.devAddr →
        (coreStep { t with pending := 0x06 }).status =
            { busy := false, posValid := false, ack := false, err := .protoMismatch } ∧
          (coreStep { t with pending := 0x06 }).pos = s.pos))

/-! ### Whole runs -/

/-- The registers' invariant holds at reset. -/
def Obligations.ResetRegistersAreOk : Prop := RegistersOk State.reset

/-- Every step keeps the registers' invariant, from every state that has it: TX_LEN is 0, 4 or 11 and the frame in TX_BUF
is a checksummed frame of that length, no result stands beside an error, and POS_RESULT is a formula of POS_CARRY and
POS_VALUE (10_state.md R28, R36, 41_encoder.md R89, 42_decoder.md R101). -/
def Obligations.EveryStepKeepsTheRegistersOk : Prop :=
  ∀ s t : State, RegistersOk s → step s = .next t → RegistersOk t

/-- The hazard analysis is exact: a schedule runs through without a stop iff it issues no write while BUSY = 1
(70_reset_and_hazards.md R123, R124) and holds no undecodable frame. The model's choices in it: the schedule (log 1), that
a received reply is a write (log 11), and that an undecodable frame stops the run (log 12: FCODEC never sees link bytes,
20_memory.md R58). -/
def Obligations.HazardFreeSchedulesAreExactlyThoseThatRun : Prop :=
  ∀ s : State, hazardFree s.status.busy s.events = true ↔
    ∃ t, Host.Core.run Sys2Proof.core s.events.length s = .next t

/-- 10_state.md R20, R38: a CMD write and the core's turn after it are the whole command, for each of the 256 codes: two
steps leave what the core step makes of the state the write left (the schedule is log 1's). -/
def Obligations.CommandIsItsWriteAndTheCoreStep : Prop :=
  ∀ (s : State) (v : Byte) (rest : List Event), s.status.busy = false →
    s.events = .packet (.host (1#1 ++ 0x00#8 ++ v)) :: .core :: rest →
    Host.Core.run Sys2Proof.core 2 s =
      .next (coreStep { s with pending := v, status := { s.status with busy := true }, events := rest })

/-- A hazard-free schedule (70_reset_and_hazards.md R123, R124; log 1, log 11, log 12) never stops, however many steps it
is run. That steps go on past the end of the schedule, the core's while BUSY = 1 and idle ones while BUSY = 0, is the
model's choice (log 3). -/
def Obligations.HazardFreeRunsNeverStop : Prop :=
  ∀ (s : State) (k : Nat), hazardFree s.status.busy s.events = true →
    ∃ t, Host.Core.run Sys2Proof.core k s = .next t

/-- 70_reset_and_hazards.md R130: a hazard-free run is through, with no event left, BUSY = 0 and the run ended, one step
after its schedule at the latest, and stays so. That the core then takes its step is the fairness assumption of R129 as the
model has it (log 3); log 1, log 11 and log 12 are the schedule's. -/
def Obligations.HazardFreeRunsEnd : Prop :=
  ∀ s : State, hazardFree s.status.busy s.events = true →
    ∃ t, Host.Core.run Sys2Proof.core (s.events.length + 1) s = .next t ∧ t.events = [] ∧ t.status.busy = false ∧
      runEnded t = true ∧ Host.Core.run Sys2Proof.core 1 t = .next t

/-- 70_reset_and_hazards.md R129, R127: however many reads the host makes while the command is pending, at whatever
addresses, the core's step leaves the same registers; only what the host has read (rdata) and the draws differ. -/
def Obligations.LatencyDoesNotChangeTheResult : Prop :=
  ∀ (s : State) (reads : List (Byte × Byte)) (rest : List Event), s.status.busy = true →
    s.events = reads.map (fun ad => .packet (.host (0#1 ++ ad.1 ++ ad.2))) ++ .core :: rest →
    ∃ t, Host.Core.run Sys2Proof.core (reads.length + 1) s = .next t ∧
      ∃ b, t = { coreStep s with rdata := b, draws := s.draws + reads.length, events := rest }

/-- 70_reset_and_hazards.md R130: a run has ended iff BUSY = 0 and nothing is ahead but turns of the core, resets and sent
frames, which change nothing in any state (log 23); then it stays ended, and this state is its final state. -/
def Obligations.RunEndsWithTheLastTransactionAndBusyZero : Prop :=
  (∀ s : State, runEnded s = true ↔
    s.status.busy = false ∧ ∀ e ∈ s.events, e = .core ∨ e = .reset ∨
      ∃ bs i, e = .packet (.link bs) ∧ decode (.link bs) = .ok i ∧ ∀ u : State, exec i u = .next u) ∧
  (∀ s : State, runEnded s = true → finalState s = some s) ∧
  (∀ s t : State, runEnded s = true → step s = .next t → runEnded t = true)

/-- 70_reset_and_hazards.md R130: the final state is the state at the first point at which the run has ended, and a run has
one iff it breaks no hazard rule. That no run ends with BUSY = 1 is log 3's; the schedule log 1's and log 11's, that an
undecodable frame leaves a run without a final state log 12's and log 23's. -/
def Obligations.FinalStateIsWhereTheRunEnds : Prop :=
  (∀ s t : State, finalState s = some t ↔
    ∃ k : Nat, k ≤ s.events.length + 1 ∧ Host.Core.run Sys2Proof.core k s = .next t ∧ runEnded t = true ∧
      ∀ (j : Nat) (u : State), j < k → Host.Core.run Sys2Proof.core j s = .next u → runEnded u = false) ∧
  (∀ s : State, hazardFree s.status.busy s.events = true ↔ ∃ t, finalState s = some t)
end

