-- ==== Sys2Proof/Laws/Bytes.lean ====
section
/-! SUPPORT. The checksum, byte groups and buffers: what each helper of Machine/Bytes.lean does. -/

namespace Sys2Proof.Machine

@[simp] theorem checksum_nil : checksum [] = 0 := rfl

@[simp] theorem checksum_cons (b : Byte) (bs : List Byte) : checksum (b :: bs) = b + checksum bs := by
  apply BitVec.eq_of_toNat_eq
  simp [checksum]

/-- The checksum of a sequence with more bytes after it (40_checksum.md R83, for one byte). -/
theorem checksum_append (as bs : List Byte) : checksum (as ++ bs) = checksum as + checksum bs := by
  induction as with
  | nil => simp
  | cons a as ih => simp [ih, BitVec.add_assoc]

@[simp] theorem overlay_getElem {n : Nat} (old : Vector Byte n) (bs : List Byte) (i : Nat) (h : i < n) :
    (overlay old bs)[i] = bs.getD i old[i] := by
  simp [overlay]

/-- At and above the frame's length a buffer keeps what it held (10_state.md R29). -/
theorem overlay_getElem_above {n : Nat} (old : Vector Byte n) (bs : List Byte) (i : Nat) (h : i < n)
    (hi : bs.length ≤ i) : (overlay old bs)[i] = old[i] := by
  simp [List.getD, List.getElem?_eq_none hi]

/-- `b:w` as a number. -/
theorem append_toNat {m n : Nat} (x : BitVec m) (y : BitVec n) : (x ++ y).toNat = x.toNat * 2 ^ n + y.toNat := by
  rw [BitVec.toNat_append, ← Nat.shiftLeft_add_eq_or_of_lt y.isLt, Nat.shiftLeft_eq]

theorem be16_toNat (b1 b0 : Byte) : (be16 b1 b0).toNat = b1.toNat * 2 ^ 8 + b0.toNat := append_toNat b1 b0

theorem be32_toNat (b3 b2 b1 b0 : Byte) :
    (be32 b3 b2 b1 b0).toNat = b3.toNat * 2 ^ 24 + b2.toNat * 2 ^ 16 + b1.toNat * 2 ^ 8 + b0.toNat := by
  have h : (be32 b3 b2 b1 b0).toNat = (b3 ++ b2 ++ b1 ++ b0).toNat := rfl
  rw [h, append_toNat, append_toNat, append_toNat]
  omega

theorem byteAt_toNat {n : Nat} (v : BitVec n) (k : Nat) : (byteAt v k).toNat = v.toNat / 2 ^ (8 * k) % 2 ^ 8 := by
  rw [byteAt, BitVec.extractLsb'_toNat, Nat.shiftRight_eq_div_pow]

/-! A group and its bytes: the byte named first is the most significant (10_state.md R26). -/

@[simp] theorem byteAt_be16_one (b1 b0 : Byte) : byteAt (be16 b1 b0) 1 = b1 := by
  apply BitVec.eq_of_toNat_eq
  rw [byteAt_toNat, be16_toNat]
  omega

@[simp] theorem byteAt_be16_zero (b1 b0 : Byte) : byteAt (be16 b1 b0) 0 = b0 := by
  apply BitVec.eq_of_toNat_eq
  rw [byteAt_toNat, be16_toNat]
  omega

@[simp] theorem byteAt_be32_three (b3 b2 b1 b0 : Byte) : byteAt (be32 b3 b2 b1 b0) 3 = b3 := by
  apply BitVec.eq_of_toNat_eq
  rw [byteAt_toNat, be32_toNat]
  omega

@[simp] theorem byteAt_be32_two (b3 b2 b1 b0 : Byte) : byteAt (be32 b3 b2 b1 b0) 2 = b2 := by
  apply BitVec.eq_of_toNat_eq
  rw [byteAt_toNat, be32_toNat]
  omega

@[simp] theorem byteAt_be32_one (b3 b2 b1 b0 : Byte) : byteAt (be32 b3 b2 b1 b0) 1 = b1 := by
  apply BitVec.eq_of_toNat_eq
  rw [byteAt_toNat, be32_toNat]
  omega

@[simp] theorem byteAt_be32_zero (b3 b2 b1 b0 : Byte) : byteAt (be32 b3 b2 b1 b0) 0 = b0 := by
  apply BitVec.eq_of_toNat_eq
  rw [byteAt_toNat, be32_toNat]
  omega

@[simp] theorem be16_byteAt (v : BitVec 16) : be16 (byteAt v 1) (byteAt v 0) = v := by
  apply BitVec.eq_of_toNat_eq
  rw [be16_toNat, byteAt_toNat, byteAt_toNat]
  omega

@[simp] theorem be32_byteAt (v : BitVec 32) : be32 (byteAt v 3) (byteAt v 2) (byteAt v 1) (byteAt v 0) = v := by
  apply BitVec.eq_of_toNat_eq
  rw [be32_toNat, byteAt_toNat, byteAt_toNat, byteAt_toNat, byteAt_toNat]
  omega

theorem bytesOfNat_length (n w : Nat) : (bytesOfNat n w).length = n := by
  induction n with
  | zero => rfl
  | succ n ih => simp [bytesOfNat, ih]

end Sys2Proof.Machine
end

