-- ==== Sys2Proof/Laws/Decode.lean ====
section
/-! SUPPORT. Host words by their fields, the rows they match, the address map and the command codes. -/

namespace Sys2Proof

open Machine (append_toNat)

/-! ### The fields of a host word (30_encoding.md R59) -/

theorem writeWord_toNat (a d : Byte) : (writeWord a d).toNat = 2 ^ 16 + a.toNat * 2 ^ 8 + d.toNat := by
  have h : (writeWord a d).toNat = (1#1 ++ a ++ d).toNat := rfl
  rw [h, append_toNat, append_toNat]
  simp
  omega

theorem readWord_toNat (a d : Byte) : (readWord a d).toNat = a.toNat * 2 ^ 8 + d.toNat := by
  have h : (readWord a d).toNat = (0#1 ++ a ++ d).toNat := rfl
  rw [h, append_toNat, append_toNat]
  simp

theorem fieldA_toNat (w : BitVec 17) : (fieldA w).toNat = w.toNat / 2 ^ 8 % 2 ^ 8 := by
  rw [fieldA, BitVec.extractLsb'_toNat, Nat.shiftRight_eq_div_pow]

theorem fieldD_toNat (w : BitVec 17) : (fieldD w).toNat = w.toNat % 2 ^ 8 := by
  rw [fieldD, BitVec.extractLsb'_toNat, Nat.shiftRight_eq_div_pow]
  simp

@[simp] theorem fieldA_writeWord (a d : Byte) : fieldA (writeWord a d) = a := by
  apply BitVec.eq_of_toNat_eq
  rw [fieldA_toNat, writeWord_toNat]
  omega

@[simp] theorem fieldD_writeWord (a d : Byte) : fieldD (writeWord a d) = d := by
  apply BitVec.eq_of_toNat_eq
  rw [fieldD_toNat, writeWord_toNat]
  omega

@[simp] theorem fieldA_readWord (a d : Byte) : fieldA (readWord a d) = a := by
  apply BitVec.eq_of_toNat_eq
  rw [fieldA_toNat, readWord_toNat]
  omega

@[simp] theorem fieldD_readWord (a d : Byte) : fieldD (readWord a d) = d := by
  apply BitVec.eq_of_toNat_eq
  rw [fieldD_toNat, readWord_toNat]
  omega

/-- A host word is a write word or a read word of its own fields. -/
theorem word_cases (w : BitVec 17) :
    w = writeWord (fieldA w) (fieldD w) ∨ w = readWord (fieldA w) (fieldD w) := by
  have hw := w.isLt
  by_cases h : w.toNat < 2 ^ 16
  · right
    apply BitVec.eq_of_toNat_eq
    rw [readWord_toNat, fieldA_toNat, fieldD_toNat]
    omega
  · left
    apply BitVec.eq_of_toNat_eq
    rw [writeWord_toNat, fieldA_toNat, fieldD_toNat]
    omega

/-! ### The rows a host word matches (30_encoding.md R61) -/

theorem word_and_all (w : BitVec 17) : w &&& 0x1FFFF#17 = w := by
  have h : (0x1FFFF#17) = BitVec.allOnes 17 := by decide
  rw [h, BitVec.and_allOnes]

theorem word_and_high (w : BitVec 17) : (w &&& 0x1FF00#17).toNat = w.toNat / 2 ^ 8 * 2 ^ 8 := by
  have h : (0x1FF00#17) = BitVec.allOnes 17 <<< 8 := by decide
  have e : w &&& 0x1FF00#17 = (w >>> 8) <<< 8 := by
    rw [h]
    ext i hi
    simp only [BitVec.getElem_and, BitVec.getElem_shiftLeft, BitVec.getElem_allOnes, BitVec.getElem_ushiftRight]
    by_cases h8 : i < 8
    · simp [h8]
    · have : 8 + (i - 8) = i := by omega
      simp [h8, this, BitVec.getLsbD_eq_getElem, hi]
  have hw := w.isLt
  rw [e, BitVec.toNat_shiftLeft, BitVec.toNat_ushiftRight, Nat.shiftRight_eq_div_pow, Nat.shiftLeft_eq]
  omega

theorem word_and_top (w : BitVec 17) : (w &&& 0x10000#17).toNat = w.toNat / 2 ^ 16 * 2 ^ 16 := by
  have h : (0x10000#17) = BitVec.allOnes 17 <<< 16 := by decide
  have e : w &&& 0x10000#17 = (w >>> 16) <<< 16 := by
    rw [h]
    ext i hi
    simp only [BitVec.getElem_and, BitVec.getElem_shiftLeft, BitVec.getElem_allOnes, BitVec.getElem_ushiftRight]
    by_cases h8 : i < 16
    · simp [h8]
    · have : 16 + (i - 16) = i := by omega
      simp [h8, this, BitVec.getLsbD_eq_getElem, hi]
  have hw := w.isLt
  rw [e, BitVec.toNat_shiftLeft, BitVec.toNat_ushiftRight, Nat.shiftRight_eq_div_pow, Nat.shiftLeft_eq]
  omega

/-- The instruction of a write word, row by row: a command, an illegal command, CSUM_IN or a generic write. -/
def writeInstr (a d : Byte) : Instr :=
  if a = 0x00 then
    match commandOf d with
    | .encPing => .encPing
    | .encGetpos => .encGetpos
    | .encMove => .encMove
    | .decPing => .decPing
    | .decMoveack => .decMoveack
    | .decPos => .decPos
    | .csumClr => .csumClr
    | .illegal => .cmdIllegal d
  else if a = 0x0F then .csumIn d
  else .wr a d

/-- A command row matches exactly the CMD write of its code. -/
theorem writeWord_full_iff (a d : Byte) (v : BitVec 17) (n : Nat) (hv : v.toNat = 2 ^ 16 + n) (hn : n < 2 ^ 8) :
    writeWord a d &&& 0x1FFFF#17 = v ↔ a = 0x00 ∧ d.toNat = n := by
  rw [word_and_all, ← BitVec.toNat_inj, writeWord_toNat, hv, ← BitVec.toNat_inj (x := a)]
  simp only [BitVec.ofNat_eq_ofNat, BitVec.toNat_ofNat, Nat.reducePow, Nat.zero_mod]
  omega

/-- A register row matches exactly the writes to its address. -/
theorem writeWord_high_iff (a d : Byte) (v : BitVec 17) (n : Byte) (hv : v.toNat = 2 ^ 16 + n.toNat * 2 ^ 8) :
    writeWord a d &&& 0x1FF00#17 = v ↔ a = n := by
  rw [← BitVec.toNat_inj, word_and_high, writeWord_toNat, hv, ← BitVec.toNat_inj (x := a)]
  omega

theorem writeWord_top (a d : Byte) : writeWord a d &&& 0x10000#17 = 0x10000#17 := by
  apply BitVec.eq_of_toNat_eq
  rw [word_and_top, writeWord_toNat]
  simp
  omega

theorem readWord_full_ne (a d : Byte) (v : BitVec 17) (hv : 2 ^ 16 ≤ v.toNat) : readWord a d &&& 0x1FFFF#17 ≠ v := by
  intro h
  have := congrArg BitVec.toNat h
  rw [word_and_all, readWord_toNat] at this
  omega

theorem readWord_high_ne (a d : Byte) (v : BitVec 17) (hv : 2 ^ 16 ≤ v.toNat) : readWord a d &&& 0x1FF00#17 ≠ v := by
  intro h
  have := congrArg BitVec.toNat h
  rw [word_and_high, readWord_toNat] at this
  omega

theorem readWord_top (a d : Byte) : readWord a d &&& 0x10000#17 = 0x00000#17 := by
  apply BitVec.eq_of_toNat_eq
  rw [word_and_top, readWord_toNat]
  simp
  omega

/-- A code outside 0x01 to 0x07 has no command (30_encoding.md R64). -/
theorem commandOf_illegal_iff (c : Byte) : commandOf c = .illegal ↔ isCommandCode c = false := by revert c; decide

/-- The rows of `firstMatch` on a write word, as conditions on its fields. -/
theorem firstMatch_writeWord (a d : Byte) :
    firstMatch (writeWord a d) hostRows =
      if a = 0x00 ∧ d.toNat = 1 then some .encPing else if a = 0x00 ∧ d.toNat = 2 then some .encGetpos
      else if a = 0x00 ∧ d.toNat = 3 then some .encMove else if a = 0x00 ∧ d.toNat = 4 then some .decPing
      else if a = 0x00 ∧ d.toNat = 5 then some .decMoveack else if a = 0x00 ∧ d.toNat = 6 then some .decPos
      else if a = 0x00 ∧ d.toNat = 7 then some .csumClr else if a = 0x00 then some (.cmdIllegal d)
      else if a = 0x0F then some (.csumIn d) else some (.wr a d) := by
  have full := fun v n hv hn => writeWord_full_iff a d v n hv hn
  simp only [hostRows, firstMatch, fieldA_writeWord, fieldD_writeWord, writeWord_top, if_true,
    full 0x10001#17 1 rfl (by decide), full 0x10002#17 2 rfl (by decide), full 0x10003#17 3 rfl (by decide),
    full 0x10004#17 4 rfl (by decide), full 0x10005#17 5 rfl (by decide), full 0x10006#17 6 rfl (by decide),
    full 0x10007#17 7 rfl (by decide), writeWord_high_iff a d 0x10000#17 0x00 rfl,
    writeWord_high_iff a d 0x10F00#17 0x0F rfl]

/-- The host decoder on a write word. -/
theorem decodeHost_writeWord (a d : Byte) : decodeHost (writeWord a d) = .ok (writeInstr a d) := by
  rw [decodeHost, firstMatch_writeWord]
  by_cases ha : a = 0x00
  · by_cases hd : isCommandCode d = true
    · revert hd
      subst ha
      revert d
      decide
    · rw [writeInstr, (commandOf_illegal_iff d).mpr (by simpa using hd)]
      have hn : ∀ n, 1 ≤ n → n ≤ 7 → d.toNat ≠ n := by
        simp only [isCommandCode, Bool.and_eq_true, decide_eq_true_eq] at hd
        omega
      simp [ha, hn 1, hn 2, hn 3, hn 4, hn 5, hn 6, hn 7]
  · simp only [ha, writeInstr, false_and, if_false]
    by_cases hf : a = 0x0F <;> simp only [hf, if_true, if_false]

/-- The host decoder on a read word. -/
theorem decodeHost_readWord (a d : Byte) : decodeHost (readWord a d) = .ok (.rd a d) := by
  have full := fun v hv => readWord_full_ne a d v hv
  have high := fun v hv => readWord_high_ne a d v hv
  have top : readWord a d &&& 0x10000#17 ≠ 0x10000#17 := by rw [readWord_top]; decide
  simp [decodeHost, hostRows, firstMatch, readWord_top,
    full 0x10001#17 (by decide), full 0x10002#17 (by decide), full 0x10003#17 (by decide), full 0x10004#17 (by decide),
    full 0x10005#17 (by decide), full 0x10006#17 (by decide), full 0x10007#17 (by decide),
    high 0x10000#17 (by decide), high 0x10F00#17 (by decide)]

/-! ### The address map (10_state.md R18) -/

theorem regAt_eq_cmd_iff (a : Byte) : regAt a = .cmd ↔ a = 0x00 := by revert a; decide

theorem regAt_eq_status_iff (a : Byte) : regAt a = .status ↔ a = 0x01 := by revert a; decide

theorem regAt_eq_csumIn_iff (a : Byte) : regAt a = .csumIn ↔ a = 0x0F := by revert a; decide

theorem regAt_eq_rxLen_iff (a : Byte) : regAt a = .rxLen ↔ a = 0x0D := by revert a; decide

theorem regAt_txBuf (i : Fin 11) : regAt (BitVec.ofNat 8 (0x10 + i.val)) = .txBuf i := by revert i; decide

theorem regAt_rxBuf (i : Fin 10) : regAt (BitVec.ofNat 8 (0x20 + i.val)) = .rxBuf i := by revert i; decide

theorem regAt_posCarry (k : Fin 4) : regAt (BitVec.ofNat 8 (0x33 - k.val)) = .posCarry k := by revert k; decide

theorem regAt_posValue (k : Fin 2) : regAt (BitVec.ofNat 8 (0x35 - k.val)) = .posValue k := by revert k; decide

theorem regAt_posResult (k : Fin 8) : regAt (BitVec.ofNat 8 (0x3F - k.val)) = .posResult k := by revert k; decide

/-- No two addresses are one register (10_state.md R17: "No register is an alias of another"). -/
theorem regAt_injective (a b : Byte) (h : regAt a = regAt b) (hr : regAt a ≠ .reserved) : a = b := by
  have key : ∀ n : Byte, ∀ r, regAt n = r → r ≠ .reserved → n = BitVec.ofNat 8 (match r with
      | .cmd => 0x00 | .status => 0x01 | .config => 0x02 | .devAddr => 0x03 | .dir => 0x04 | .accel => 0x05
      | .speedHi => 0x06 | .speedLo => 0x07 | .pulses3 => 0x08 | .pulses2 => 0x09 | .pulses1 => 0x0A | .pulses0 => 0x0B
      | .txLen => 0x0C | .rxLen => 0x0D | .csumAcc => 0x0E | .csumIn => 0x0F
      | .txBuf i => 0x10 + i.val | .rxBuf i => 0x20 + i.val | .posCarry k => 0x33 - k.val
      | .posValue k => 0x35 - k.val | .posResult k => 0x3F - k.val | .reserved => 0) := by
    intro n r hn hne
    subst hn
    revert n
    decide
  rw [key a _ rfl hr, h]
  exact (key b _ rfl (h ▸ hr)).symm

end Sys2Proof
end

