-- ==== Sys2Proof/Laws/State.lean ====
section
/-! SUPPORT. One lemma per field of State per named update of Machine/Ops.lean and Machine/Fetch.lean, and per flag of
STATUS per flag update of Machine/Flags.lean. -/

namespace Sys2Proof.Machine

/-! ### STATUS -/

@[simp] theorem flagsBusy_busy (f : Status) : (flagsBusy f).busy = true := rfl
@[simp] theorem flagsBusy_posValid (f : Status) : (flagsBusy f).posValid = f.posValid := rfl
@[simp] theorem flagsBusy_ack (f : Status) : (flagsBusy f).ack = f.ack := rfl
@[simp] theorem flagsBusy_err (f : Status) : (flagsBusy f).err = f.err := rfl

@[simp] theorem flagsOpen_busy (f : Status) : (flagsOpen f).busy = f.busy := rfl
@[simp] theorem flagsOpen_posValid (f : Status) : (flagsOpen f).posValid = false := rfl
@[simp] theorem flagsOpen_ack (f : Status) : (flagsOpen f).ack = false := rfl
@[simp] theorem flagsOpen_err (f : Status) : (flagsOpen f).err = .none := rfl

@[simp] theorem flagsRaise_busy (e : ErrCode) (f : Status) : (flagsRaise e f).busy = f.busy := rfl
@[simp] theorem flagsRaise_posValid (e : ErrCode) (f : Status) : (flagsRaise e f).posValid = f.posValid := rfl
@[simp] theorem flagsRaise_ack (e : ErrCode) (f : Status) : (flagsRaise e f).ack = f.ack := rfl
@[simp] theorem flagsRaise_err (e : ErrCode) (f : Status) : (flagsRaise e f).err = e := rfl

@[simp] theorem flagsAck_busy (b : Bool) (f : Status) : (flagsAck b f).busy = f.busy := rfl
@[simp] theorem flagsAck_posValid (b : Bool) (f : Status) : (flagsAck b f).posValid = f.posValid := rfl
@[simp] theorem flagsAck_ack (b : Bool) (f : Status) : (flagsAck b f).ack = b := rfl
@[simp] theorem flagsAck_err (b : Bool) (f : Status) : (flagsAck b f).err = f.err := rfl

@[simp] theorem flagsPosValid_busy (f : Status) : (flagsPosValid f).busy = f.busy := rfl
@[simp] theorem flagsPosValid_posValid (f : Status) : (flagsPosValid f).posValid = true := rfl
@[simp] theorem flagsPosValid_ack (f : Status) : (flagsPosValid f).ack = f.ack := rfl
@[simp] theorem flagsPosValid_err (f : Status) : (flagsPosValid f).err = f.err := rfl

@[simp] theorem flagsClose_busy (f : Status) : (flagsClose f).busy = false := rfl
@[simp] theorem flagsClose_posValid (f : Status) : (flagsClose f).posValid = f.posValid := rfl
@[simp] theorem flagsClose_ack (f : Status) : (flagsClose f).ack = f.ack := rfl
@[simp] theorem flagsClose_err (f : Status) : (flagsClose f).err = f.err := rfl

/-! ### State -/

@[simp] theorem latchCommand_status (v : Byte) (s : State) : (latchCommand v s).status = flagsBusy s.status := rfl
@[simp] theorem latchCommand_fmt (v : Byte) (s : State) : (latchCommand v s).fmt = s.fmt := rfl
@[simp] theorem latchCommand_params (v : Byte) (s : State) : (latchCommand v s).params = s.params := rfl
@[simp] theorem latchCommand_txLen (v : Byte) (s : State) : (latchCommand v s).txLen = s.txLen := rfl
@[simp] theorem latchCommand_txBuf (v : Byte) (s : State) : (latchCommand v s).txBuf = s.txBuf := rfl
@[simp] theorem latchCommand_rxLen (v : Byte) (s : State) : (latchCommand v s).rxLen = s.rxLen := rfl
@[simp] theorem latchCommand_rxBuf (v : Byte) (s : State) : (latchCommand v s).rxBuf = s.rxBuf := rfl
@[simp] theorem latchCommand_csumAcc (v : Byte) (s : State) : (latchCommand v s).csumAcc = s.csumAcc := rfl
@[simp] theorem latchCommand_pos (v : Byte) (s : State) : (latchCommand v s).pos = s.pos := rfl
@[simp] theorem latchCommand_pending (v : Byte) (s : State) : (latchCommand v s).pending = v := rfl
@[simp] theorem latchCommand_rdata (v : Byte) (s : State) : (latchCommand v s).rdata = s.rdata := rfl
@[simp] theorem latchCommand_draws (v : Byte) (s : State) : (latchCommand v s).draws = s.draws := rfl
@[simp] theorem latchCommand_events (v : Byte) (s : State) : (latchCommand v s).events = s.events := rfl

@[simp] theorem addToChecksum_status (v : Byte) (s : State) : (addToChecksum v s).status = s.status := rfl
@[simp] theorem addToChecksum_fmt (v : Byte) (s : State) : (addToChecksum v s).fmt = s.fmt := rfl
@[simp] theorem addToChecksum_params (v : Byte) (s : State) : (addToChecksum v s).params = s.params := rfl
@[simp] theorem addToChecksum_txLen (v : Byte) (s : State) : (addToChecksum v s).txLen = s.txLen := rfl
@[simp] theorem addToChecksum_txBuf (v : Byte) (s : State) : (addToChecksum v s).txBuf = s.txBuf := rfl
@[simp] theorem addToChecksum_rxLen (v : Byte) (s : State) : (addToChecksum v s).rxLen = s.rxLen := rfl
@[simp] theorem addToChecksum_rxBuf (v : Byte) (s : State) : (addToChecksum v s).rxBuf = s.rxBuf := rfl
@[simp] theorem addToChecksum_csumAcc (v : Byte) (s : State) : (addToChecksum v s).csumAcc = s.csumAcc + v := rfl
@[simp] theorem addToChecksum_pos (v : Byte) (s : State) : (addToChecksum v s).pos = s.pos := rfl
@[simp] theorem addToChecksum_pending (v : Byte) (s : State) : (addToChecksum v s).pending = s.pending := rfl
@[simp] theorem addToChecksum_rdata (v : Byte) (s : State) : (addToChecksum v s).rdata = s.rdata := rfl
@[simp] theorem addToChecksum_draws (v : Byte) (s : State) : (addToChecksum v s).draws = s.draws := rfl
@[simp] theorem addToChecksum_events (v : Byte) (s : State) : (addToChecksum v s).events = s.events := rfl

@[simp] theorem openCommand_status (s : State) : (openCommand s).status = flagsOpen s.status := rfl
@[simp] theorem openCommand_fmt (s : State) : (openCommand s).fmt = s.fmt := rfl
@[simp] theorem openCommand_params (s : State) : (openCommand s).params = s.params := rfl
@[simp] theorem openCommand_txLen (s : State) : (openCommand s).txLen = s.txLen := rfl
@[simp] theorem openCommand_txBuf (s : State) : (openCommand s).txBuf = s.txBuf := rfl
@[simp] theorem openCommand_rxLen (s : State) : (openCommand s).rxLen = s.rxLen := rfl
@[simp] theorem openCommand_rxBuf (s : State) : (openCommand s).rxBuf = s.rxBuf := rfl
@[simp] theorem openCommand_csumAcc (s : State) : (openCommand s).csumAcc = s.csumAcc := rfl
@[simp] theorem openCommand_pos (s : State) : (openCommand s).pos = s.pos := rfl
@[simp] theorem openCommand_pending (s : State) : (openCommand s).pending = s.pending := rfl
@[simp] theorem openCommand_rdata (s : State) : (openCommand s).rdata = s.rdata := rfl
@[simp] theorem openCommand_draws (s : State) : (openCommand s).draws = s.draws := rfl
@[simp] theorem openCommand_events (s : State) : (openCommand s).events = s.events := rfl

@[simp] theorem closeCommand_status (s : State) : (closeCommand s).status = flagsClose s.status := rfl
@[simp] theorem closeCommand_fmt (s : State) : (closeCommand s).fmt = s.fmt := rfl
@[simp] theorem closeCommand_params (s : State) : (closeCommand s).params = s.params := rfl
@[simp] theorem closeCommand_txLen (s : State) : (closeCommand s).txLen = s.txLen := rfl
@[simp] theorem closeCommand_txBuf (s : State) : (closeCommand s).txBuf = s.txBuf := rfl
@[simp] theorem closeCommand_rxLen (s : State) : (closeCommand s).rxLen = s.rxLen := rfl
@[simp] theorem closeCommand_rxBuf (s : State) : (closeCommand s).rxBuf = s.rxBuf := rfl
@[simp] theorem closeCommand_csumAcc (s : State) : (closeCommand s).csumAcc = s.csumAcc := rfl
@[simp] theorem closeCommand_pos (s : State) : (closeCommand s).pos = s.pos := rfl
@[simp] theorem closeCommand_pending (s : State) : (closeCommand s).pending = s.pending := rfl
@[simp] theorem closeCommand_rdata (s : State) : (closeCommand s).rdata = s.rdata := rfl
@[simp] theorem closeCommand_draws (s : State) : (closeCommand s).draws = s.draws := rfl
@[simp] theorem closeCommand_events (s : State) : (closeCommand s).events = s.events := rfl

@[simp] theorem raiseErr_status (e : ErrCode) (s : State) : (raiseErr e s).status = flagsRaise e s.status := rfl
@[simp] theorem raiseErr_fmt (e : ErrCode) (s : State) : (raiseErr e s).fmt = s.fmt := rfl
@[simp] theorem raiseErr_params (e : ErrCode) (s : State) : (raiseErr e s).params = s.params := rfl
@[simp] theorem raiseErr_txLen (e : ErrCode) (s : State) : (raiseErr e s).txLen = s.txLen := rfl
@[simp] theorem raiseErr_txBuf (e : ErrCode) (s : State) : (raiseErr e s).txBuf = s.txBuf := rfl
@[simp] theorem raiseErr_rxLen (e : ErrCode) (s : State) : (raiseErr e s).rxLen = s.rxLen := rfl
@[simp] theorem raiseErr_rxBuf (e : ErrCode) (s : State) : (raiseErr e s).rxBuf = s.rxBuf := rfl
@[simp] theorem raiseErr_csumAcc (e : ErrCode) (s : State) : (raiseErr e s).csumAcc = s.csumAcc := rfl
@[simp] theorem raiseErr_pos (e : ErrCode) (s : State) : (raiseErr e s).pos = s.pos := rfl
@[simp] theorem raiseErr_pending (e : ErrCode) (s : State) : (raiseErr e s).pending = s.pending := rfl
@[simp] theorem raiseErr_rdata (e : ErrCode) (s : State) : (raiseErr e s).rdata = s.rdata := rfl
@[simp] theorem raiseErr_draws (e : ErrCode) (s : State) : (raiseErr e s).draws = s.draws := rfl
@[simp] theorem raiseErr_events (e : ErrCode) (s : State) : (raiseErr e s).events = s.events := rfl

@[simp] theorem putFrame_status (f : List Byte) (s : State) : (putFrame f s).status = s.status := rfl
@[simp] theorem putFrame_fmt (f : List Byte) (s : State) : (putFrame f s).fmt = s.fmt := rfl
@[simp] theorem putFrame_params (f : List Byte) (s : State) : (putFrame f s).params = s.params := rfl
@[simp] theorem putFrame_txLen (f : List Byte) (s : State) : (putFrame f s).txLen = BitVec.ofNat 4 f.length := rfl
@[simp] theorem putFrame_txBuf (f : List Byte) (s : State) : (putFrame f s).txBuf = overlay s.txBuf f := rfl
@[simp] theorem putFrame_rxLen (f : List Byte) (s : State) : (putFrame f s).rxLen = s.rxLen := rfl
@[simp] theorem putFrame_rxBuf (f : List Byte) (s : State) : (putFrame f s).rxBuf = s.rxBuf := rfl
@[simp] theorem putFrame_csumAcc (f : List Byte) (s : State) : (putFrame f s).csumAcc = s.csumAcc := rfl
@[simp] theorem putFrame_pos (f : List Byte) (s : State) : (putFrame f s).pos = s.pos := rfl
@[simp] theorem putFrame_pending (f : List Byte) (s : State) : (putFrame f s).pending = s.pending := rfl
@[simp] theorem putFrame_rdata (f : List Byte) (s : State) : (putFrame f s).rdata = s.rdata := rfl
@[simp] theorem putFrame_draws (f : List Byte) (s : State) : (putFrame f s).draws = s.draws := rfl
@[simp] theorem putFrame_events (f : List Byte) (s : State) : (putFrame f s).events = s.events := rfl

@[simp] theorem dropFrame_status (s : State) : (dropFrame s).status = s.status := rfl
@[simp] theorem dropFrame_fmt (s : State) : (dropFrame s).fmt = s.fmt := rfl
@[simp] theorem dropFrame_params (s : State) : (dropFrame s).params = s.params := rfl
@[simp] theorem dropFrame_txLen (s : State) : (dropFrame s).txLen = 0 := rfl
@[simp] theorem dropFrame_txBuf (s : State) : (dropFrame s).txBuf = s.txBuf := rfl
@[simp] theorem dropFrame_rxLen (s : State) : (dropFrame s).rxLen = s.rxLen := rfl
@[simp] theorem dropFrame_rxBuf (s : State) : (dropFrame s).rxBuf = s.rxBuf := rfl
@[simp] theorem dropFrame_csumAcc (s : State) : (dropFrame s).csumAcc = s.csumAcc := rfl
@[simp] theorem dropFrame_pos (s : State) : (dropFrame s).pos = s.pos := rfl
@[simp] theorem dropFrame_pending (s : State) : (dropFrame s).pending = s.pending := rfl
@[simp] theorem dropFrame_rdata (s : State) : (dropFrame s).rdata = s.rdata := rfl
@[simp] theorem dropFrame_draws (s : State) : (dropFrame s).draws = s.draws := rfl
@[simp] theorem dropFrame_events (s : State) : (dropFrame s).events = s.events := rfl

@[simp] theorem setAck_status (b : Bool) (s : State) : (setAck b s).status = flagsAck b s.status := rfl
@[simp] theorem setAck_fmt (b : Bool) (s : State) : (setAck b s).fmt = s.fmt := rfl
@[simp] theorem setAck_params (b : Bool) (s : State) : (setAck b s).params = s.params := rfl
@[simp] theorem setAck_txLen (b : Bool) (s : State) : (setAck b s).txLen = s.txLen := rfl
@[simp] theorem setAck_txBuf (b : Bool) (s : State) : (setAck b s).txBuf = s.txBuf := rfl
@[simp] theorem setAck_rxLen (b : Bool) (s : State) : (setAck b s).rxLen = s.rxLen := rfl
@[simp] theorem setAck_rxBuf (b : Bool) (s : State) : (setAck b s).rxBuf = s.rxBuf := rfl
@[simp] theorem setAck_csumAcc (b : Bool) (s : State) : (setAck b s).csumAcc = s.csumAcc := rfl
@[simp] theorem setAck_pos (b : Bool) (s : State) : (setAck b s).pos = s.pos := rfl
@[simp] theorem setAck_pending (b : Bool) (s : State) : (setAck b s).pending = s.pending := rfl
@[simp] theorem setAck_rdata (b : Bool) (s : State) : (setAck b s).rdata = s.rdata := rfl
@[simp] theorem setAck_draws (b : Bool) (s : State) : (setAck b s).draws = s.draws := rfl
@[simp] theorem setAck_events (b : Bool) (s : State) : (setAck b s).events = s.events := rfl

@[simp] theorem setPosition_status (p : Position) (s : State) : (setPosition p s).status = flagsPosValid s.status := rfl
@[simp] theorem setPosition_fmt (p : Position) (s : State) : (setPosition p s).fmt = s.fmt := rfl
@[simp] theorem setPosition_params (p : Position) (s : State) : (setPosition p s).params = s.params := rfl
@[simp] theorem setPosition_txLen (p : Position) (s : State) : (setPosition p s).txLen = s.txLen := rfl
@[simp] theorem setPosition_txBuf (p : Position) (s : State) : (setPosition p s).txBuf = s.txBuf := rfl
@[simp] theorem setPosition_rxLen (p : Position) (s : State) : (setPosition p s).rxLen = s.rxLen := rfl
@[simp] theorem setPosition_rxBuf (p : Position) (s : State) : (setPosition p s).rxBuf = s.rxBuf := rfl
@[simp] theorem setPosition_csumAcc (p : Position) (s : State) : (setPosition p s).csumAcc = s.csumAcc := rfl
@[simp] theorem setPosition_pos (p : Position) (s : State) : (setPosition p s).pos = p := rfl
@[simp] theorem setPosition_pending (p : Position) (s : State) : (setPosition p s).pending = s.pending := rfl
@[simp] theorem setPosition_rdata (p : Position) (s : State) : (setPosition p s).rdata = s.rdata := rfl
@[simp] theorem setPosition_draws (p : Position) (s : State) : (setPosition p s).draws = s.draws := rfl
@[simp] theorem setPosition_events (p : Position) (s : State) : (setPosition p s).events = s.events := rfl

@[simp] theorem clearChecksum_status (s : State) : (clearChecksum s).status = s.status := rfl
@[simp] theorem clearChecksum_fmt (s : State) : (clearChecksum s).fmt = s.fmt := rfl
@[simp] theorem clearChecksum_params (s : State) : (clearChecksum s).params = s.params := rfl
@[simp] theorem clearChecksum_txLen (s : State) : (clearChecksum s).txLen = s.txLen := rfl
@[simp] theorem clearChecksum_txBuf (s : State) : (clearChecksum s).txBuf = s.txBuf := rfl
@[simp] theorem clearChecksum_rxLen (s : State) : (clearChecksum s).rxLen = s.rxLen := rfl
@[simp] theorem clearChecksum_rxBuf (s : State) : (clearChecksum s).rxBuf = s.rxBuf := rfl
@[simp] theorem clearChecksum_csumAcc (s : State) : (clearChecksum s).csumAcc = 0x00 := rfl
@[simp] theorem clearChecksum_pos (s : State) : (clearChecksum s).pos = s.pos := rfl
@[simp] theorem clearChecksum_pending (s : State) : (clearChecksum s).pending = s.pending := rfl
@[simp] theorem clearChecksum_rdata (s : State) : (clearChecksum s).rdata = s.rdata := rfl
@[simp] theorem clearChecksum_draws (s : State) : (clearChecksum s).draws = s.draws := rfl
@[simp] theorem clearChecksum_events (s : State) : (clearChecksum s).events = s.events := rfl

@[simp] theorem resetRegisters_status (s : State) : (resetRegisters s).status = State.reset.status := rfl
@[simp] theorem resetRegisters_fmt (s : State) : (resetRegisters s).fmt = State.reset.fmt := rfl
@[simp] theorem resetRegisters_params (s : State) : (resetRegisters s).params = State.reset.params := rfl
@[simp] theorem resetRegisters_txLen (s : State) : (resetRegisters s).txLen = State.reset.txLen := rfl
@[simp] theorem resetRegisters_txBuf (s : State) : (resetRegisters s).txBuf = State.reset.txBuf := rfl
@[simp] theorem resetRegisters_rxLen (s : State) : (resetRegisters s).rxLen = State.reset.rxLen := rfl
@[simp] theorem resetRegisters_rxBuf (s : State) : (resetRegisters s).rxBuf = State.reset.rxBuf := rfl
@[simp] theorem resetRegisters_csumAcc (s : State) : (resetRegisters s).csumAcc = State.reset.csumAcc := rfl
@[simp] theorem resetRegisters_pos (s : State) : (resetRegisters s).pos = State.reset.pos := rfl
@[simp] theorem resetRegisters_pending (s : State) : (resetRegisters s).pending = State.reset.pending := rfl
@[simp] theorem resetRegisters_rdata (s : State) : (resetRegisters s).rdata = s.rdata := rfl
@[simp] theorem resetRegisters_draws (s : State) : (resetRegisters s).draws = s.draws := rfl
@[simp] theorem resetRegisters_events (s : State) : (resetRegisters s).events = s.events := rfl

@[simp] theorem scheduleFirst_status (p : Packet) (s : State) : (scheduleFirst p s).status = s.status := rfl
@[simp] theorem scheduleFirst_fmt (p : Packet) (s : State) : (scheduleFirst p s).fmt = s.fmt := rfl
@[simp] theorem scheduleFirst_params (p : Packet) (s : State) : (scheduleFirst p s).params = s.params := rfl
@[simp] theorem scheduleFirst_txLen (p : Packet) (s : State) : (scheduleFirst p s).txLen = s.txLen := rfl
@[simp] theorem scheduleFirst_txBuf (p : Packet) (s : State) : (scheduleFirst p s).txBuf = s.txBuf := rfl
@[simp] theorem scheduleFirst_rxLen (p : Packet) (s : State) : (scheduleFirst p s).rxLen = s.rxLen := rfl
@[simp] theorem scheduleFirst_rxBuf (p : Packet) (s : State) : (scheduleFirst p s).rxBuf = s.rxBuf := rfl
@[simp] theorem scheduleFirst_csumAcc (p : Packet) (s : State) : (scheduleFirst p s).csumAcc = s.csumAcc := rfl
@[simp] theorem scheduleFirst_pos (p : Packet) (s : State) : (scheduleFirst p s).pos = s.pos := rfl
@[simp] theorem scheduleFirst_pending (p : Packet) (s : State) : (scheduleFirst p s).pending = s.pending := rfl
@[simp] theorem scheduleFirst_rdata (p : Packet) (s : State) : (scheduleFirst p s).rdata = s.rdata := rfl
@[simp] theorem scheduleFirst_draws (p : Packet) (s : State) : (scheduleFirst p s).draws = s.draws := rfl
@[simp] theorem scheduleFirst_events (p : Packet) (s : State) : (scheduleFirst p s).events = .packet p :: s.events := rfl

end Sys2Proof.Machine
end

