-- ==== Sys2Proof/Laws/Bus.lean ====
section
/-! SUPPORT. The host transactions: what MemRead, MemWrite and rxload do, and what a store to a register leaves alone. -/

namespace Sys2Proof.Machine

/-! ### Stores -/

theorem storeReg_txBuf (r : Reg) (v : Byte) (s : State) : (storeReg r v s).txBuf = s.txBuf := by cases r <;> rfl

theorem storeReg_txLen (r : Reg) (v : Byte) (s : State) : (storeReg r v s).txLen = s.txLen := by cases r <;> rfl

theorem storeReg_pos (r : Reg) (v : Byte) (s : State) : (storeReg r v s).pos = s.pos := by cases r <;> rfl

theorem storeReg_rdata (r : Reg) (v : Byte) (s : State) : (storeReg r v s).rdata = s.rdata := by cases r <;> rfl

theorem storeReg_draws (r : Reg) (v : Byte) (s : State) : (storeReg r v s).draws = s.draws := by cases r <;> rfl

theorem storeReg_events (r : Reg) (v : Byte) (s : State) : (storeReg r v s).events = s.events := by cases r <;> rfl

/-- A store sets BUSY where it is to CMD and touches no other flag (10_state.md R20, R41). -/
theorem storeReg_status (r : Reg) (v : Byte) (s : State) :
    (storeReg r v s).status = if r = .cmd then flagsBusy s.status else s.status := by cases r <;> rfl

theorem storeReg_pending (r : Reg) (v : Byte) (s : State) :
    (storeReg r v s).pending = if r = .cmd then v else s.pending := by cases r <;> rfl

theorem storeReg_csumAcc (r : Reg) (v : Byte) (s : State) :
    (storeReg r v s).csumAcc = if r = .csumIn then s.csumAcc + v else s.csumAcc := by cases r <;> rfl

/-- RO registers and reserved addresses ignore a write (20_memory.md R46). -/
theorem storeReg_ignored (r : Reg) (v : Byte) (s : State) (h : accessOf r = .ro ∨ accessOf r = .rsvd) :
    storeReg r v s = s := by
  cases r <;> simp_all [accessOf, storeReg]

/-! ### MemWrite -/

theorem memWrite_idle (a v : Byte) (s : State) (h : s.status.busy = false) :
    memWrite a v s = .next (storeReg (regAt a) v s) := by
  simp [memWrite, h]

theorem memWrite_busy (a v : Byte) (s : State) (h : s.status.busy = true) :
    memWrite a v s = if regAt a = .cmd then .fault .cmdWriteWhileBusy else .fault .writeWhileBusy := by
  simp [memWrite, h]

/-- All that MemWrite can do when it completes. -/
theorem memWrite_next {a v : Byte} {s t : State} (h : memWrite a v s = .next t) :
    s.status.busy = false ∧ t = storeReg (regAt a) v s := by
  cases hb : s.status.busy with
  | false => rw [memWrite_idle a v s hb] at h; exact ⟨rfl, by injection h with h; exact h.symm⟩
  | true => rw [memWrite_busy a v s hb] at h; split at h <;> contradiction

/-! ### MemRead -/

/-- A read changes rdata, and draws while BUSY = 1, and nothing else (20_memory.md R45). -/
theorem memRead_eq (a : Byte) (s : State) :
    ∃ b n, memRead a s = { s with rdata := b, draws := n } := by
  cases hb : s.status.busy with
  | false => exact ⟨readByte a s, s.draws, by simp [memRead, hb]⟩
  | true => exact ⟨busyByte a (Config.busyRead s.draws), s.draws + 1, by simp [memRead, hb]⟩

theorem busyByte_status (free : Byte) : (busyByte 0x01 free).getLsbD 7 = true := by
  have h : regAt 0x01 = .status := by decide
  rw [busyByte, if_pos h]
  simp

/-! ### rxload -/

theorem writeReply_idle (i : Nat) (bs : List Byte) (s : State) (h : s.status.busy = false) (hi : i + bs.length ≤ 10) :
    writeReply i bs s =
      .next { s with rxBuf := Vector.ofFn fun j => if j.val < i then s.rxBuf[j] else bs.getD (j.val - i) s.rxBuf[j] } := by
  induction bs generalizing i s with
  | nil => simp [writeReply]
  | cons b bs ih =>
    have hlt : i < 10 := by simp at hi; omega
    have hreg : regAt (BitVec.ofNat 8 (0x20 + i)) = .rxBuf ⟨i, hlt⟩ := regAt_rxBuf ⟨i, hlt⟩
    rw [writeReply, memWrite_idle _ _ _ h, hreg, andThen, ih (i + 1) _ (by simpa [storeReg] using h) (by simp at hi; omega)]
    simp only [storeReg, Host.Outcome.next.injEq, State.mk.injEq, true_and, and_true]
    ext j hj
    simp only [Vector.getElem_ofFn, Fin.getElem_fin, Vector.getElem_set]
    by_cases h1 : j < i
    · simp [h1, show j < i + 1 by omega, show ¬ i = j by omega]
    · by_cases h2 : j = i
      · simp [h2]
      · simp [h1, show ¬ j < i + 1 by omega, show j - i = j - (i + 1) + 1 by omega, show ¬ i = j by omega]

/-- `rxload` of at most ten bytes while BUSY = 0: the bytes in RX_BUF from index 0, their count in RX_LEN. -/
theorem rxLoad_idle (bs : List Byte) (s : State) (h : s.status.busy = false) (hl : bs.length ≤ 10) :
    rxLoad bs s = .next { s with rxBuf := overlay s.rxBuf bs, rxLen := BitVec.ofNat 4 bs.length } := by
  rw [rxLoad, writeReply_idle 0 bs s h (by omega), andThen, memWrite_idle _ _ _ (by simpa using h),
    show regAt 0x0D = .rxLen by decide]
  simp [storeReg, overlay, BitVec.setWidth_ofNat_of_le]

/-- `rxload` while BUSY = 1 violates the hazard rule at its first write (70_reset_and_hazards.md R124). -/
theorem rxLoad_busy (b : Byte) (bs : List Byte) (s : State) (h : s.status.busy = true) :
    rxLoad (b :: bs) s = .fault .writeWhileBusy := by
  rw [rxLoad, writeReply, memWrite_busy _ _ _ h, show regAt (BitVec.ofNat 8 (0x20 + 0)) = .rxBuf 0 by decide]
  rfl

end Sys2Proof.Machine
end

