-- ==== Sys2Proof/Laws/CoreStep.lean ====
section
/-! SUPPORT. The core step: what each command's body does and what no command touches. -/

namespace Sys2Proof.Machine

/-! ### The decode commands: the error they raise or the result they leave -/

theorem bodyDecPing_cases (s : State) :
    (∃ e, replyError 4 s = some e ∧ bodyDecPing s = raiseErr e s) ∨
      (replyError 4 s = none ∧ bodyDecPing s = setAck true s) := by
  unfold bodyDecPing
  cases replyError 4 s <;> simp

theorem bodyDecMoveack_cases (s : State) :
    (∃ e, replyError 4 s = some e ∧ bodyDecMoveack s = raiseErr e s) ∨
      (replyError 4 s = none ∧ bodyDecMoveack s = setAck (s.rxBuf[3] == 0x01) s) := by
  unfold bodyDecMoveack
  cases replyError 4 s <;> simp

theorem bodyDecPos_cases (s : State) :
    (∃ e, positionError s = some e ∧ bodyDecPos s = raiseErr e s) ∨
      (positionError s = none ∧ bodyDecPos s = setPosition (decodedPosition s.fmt s.rxBuf) s) := by
  unfold bodyDecPos
  cases positionError s <;> simp

theorem bodyEncMove_cases (s : State) :
    (moveRejected s.params = true ∧ bodyEncMove s = raiseErr .validation (dropFrame s)) ∨
      (moveRejected s.params = false ∧
        bodyEncMove s =
          putFrame (moveFrame s.params.devAddr s.params.dir (speedOf s.params) s.params.accel (pulsesOf s.params)) s) := by
  unfold bodyEncMove
  cases moveRejected s.params <;> simp

/-- The error of a decode command is never NONE. -/
theorem replyError_ne_none {n : Nat} {s : State} {e : ErrCode} (h : replyError n s = some e) : e ≠ .none := by
  unfold replyError at h
  split at h
  · injection h with h; subst h; decide
  · split at h
    · injection h with h; subst h; decide
    · contradiction

theorem positionError_ne_none {s : State} {e : ErrCode} (h : positionError s = some e) : e ≠ .none := by
  unfold positionError at h
  cases hr : replyError 10 s with
  | some e' => rw [hr] at h; injection h with h; subst h; exact replyError_ne_none hr
  | none =>
    rw [hr] at h
    simp only at h
    split at h
    · injection h with h; subst h; decide
    · contradiction

/-! ### What every body may do -/

/-- All a command's body can do: leave the state as it was but for TX_BUF and TX_LEN (a frame, or none and VALIDATION),
CSUM_ACC, the position groups with POS_VALID, ACK, or ERR (10_state.md R40). -/
theorem commandBody_cases (c : Command) (s : State) :
    (∃ f, commandBody c s = putFrame f s ∧
      (f = pingFrame s.params.devAddr ∧ c = .encPing ∨ f = getposFrame s.params.devAddr ∧ c = .encGetpos ∨
        f = moveFrame s.params.devAddr s.params.dir (speedOf s.params) s.params.accel (pulsesOf s.params) ∧
          c = .encMove ∧ moveRejected s.params = false)) ∨
    (commandBody c s = raiseErr .validation (dropFrame s) ∧ c = .encMove ∧ moveRejected s.params = true) ∨
    (∃ b, commandBody c s = setAck b s ∧ (c = .decPing ∨ c = .decMoveack) ∧ replyError 4 s = none) ∨
    (commandBody c s = setPosition (decodedPosition s.fmt s.rxBuf) s ∧ c = .decPos ∧ positionError s = none) ∨
    (commandBody c s = clearChecksum s ∧ c = .csumClr) ∨
    (∃ e, e ≠ .none ∧ commandBody c s = raiseErr e s ∧
      (c = .decPing ∧ replyError 4 s = some e ∨ c = .decMoveack ∧ replyError 4 s = some e ∨
        c = .decPos ∧ positionError s = some e ∨ c = .illegal ∧ e = .illegalCmd)) := by
  cases c with
  | encPing => exact .inl ⟨_, rfl, .inl ⟨rfl, rfl⟩⟩
  | encGetpos => exact .inl ⟨_, rfl, .inr (.inl ⟨rfl, rfl⟩)⟩
  | encMove =>
    rcases bodyEncMove_cases s with ⟨h, hb⟩ | ⟨h, hb⟩
    · exact .inr (.inl ⟨hb, rfl, h⟩)
    · exact .inl ⟨_, hb, .inr (.inr ⟨rfl, rfl, h⟩)⟩
  | decPing =>
    rcases bodyDecPing_cases s with ⟨e, h, hb⟩ | ⟨h, hb⟩
    · exact .inr (.inr (.inr (.inr (.inr ⟨e, replyError_ne_none h, hb, .inl ⟨rfl, h⟩⟩))))
    · exact .inr (.inr (.inl ⟨_, hb, .inl rfl, h⟩))
  | decMoveack =>
    rcases bodyDecMoveack_cases s with ⟨e, h, hb⟩ | ⟨h, hb⟩
    · exact .inr (.inr (.inr (.inr (.inr ⟨e, replyError_ne_none h, hb, .inr (.inl ⟨rfl, h⟩)⟩))))
    · exact .inr (.inr (.inl ⟨_, hb, .inr rfl, h⟩))
  | decPos =>
    rcases bodyDecPos_cases s with ⟨e, h, hb⟩ | ⟨h, hb⟩
    · exact .inr (.inr (.inr (.inr (.inr ⟨e, positionError_ne_none h, hb, .inr (.inr (.inl ⟨rfl, h⟩))⟩))))
    · exact .inr (.inr (.inr (.inl ⟨hb, rfl, h⟩)))
  | csumClr => exact .inr (.inr (.inr (.inr (.inl ⟨rfl, rfl⟩))))
  | illegal =>
    exact .inr (.inr (.inr (.inr (.inr ⟨.illegalCmd, by decide, rfl, .inr (.inr (.inr ⟨rfl, rfl⟩))⟩))))

/-! ### The core step -/

/-- The core step of the command in PENDING: opening step, body, closing step (10_state.md R38). -/
theorem coreStep_of {s : State} {c : Command} (h : commandOf s.pending = c) :
    coreStep s = closeCommand (commandBody c (openCommand s)) := by rw [coreStep, h]

/-! The checks read neither STATUS nor anything a command writes, so the opening step does not change them. -/

theorem replyError_open (n : Nat) (s : State) : replyError n (openCommand s) = replyError n s := rfl

theorem positionError_open (s : State) : positionError (openCommand s) = positionError s := rfl

/-- The frames' lengths (30_encoding.md R75). -/
theorem pingFrame_length (a : Byte) : (pingFrame a).length = 4 := rfl

theorem getposFrame_length (a : Byte) : (getposFrame a).length = 4 := rfl

theorem moveFrame_length (a : Byte) (d : BitVec 1) (sp : BitVec 16) (g : Byte) (p : BitVec 32) :
    (moveFrame a d sp g p).length = 11 := rfl

end Sys2Proof.Machine
end

