-- ==== Sys2Proof/Laws/Decoder.lean ====
section
/-! SUPPORT. The decoders' checks, when each answers what (42_decoder.md R91 to R93), and the range of the position
(R98). -/

namespace Sys2Proof.Machine

theorem replyError_short {n : Nat} {s : State} (h : s.rxLen.toNat < n) : replyError n s = some .shortRead := by
  rw [replyError, if_pos h]

theorem replyError_header {n : Nat} {s : State} (h : n ≤ s.rxLen.toNat) (hh : s.rxBuf[0] ≠ 0xFB) :
    replyError n s = some .malformed := by
  rw [replyError, if_neg (by omega), if_pos hh]

theorem replyError_ok {n : Nat} {s : State} (h : n ≤ s.rxLen.toNat) (hh : s.rxBuf[0] = 0xFB) :
    replyError n s = none := by
  rw [replyError, if_neg (by omega), if_neg (by simpa using hh)]

/-- The three cases of the checks every decode command makes. -/
theorem replyError_cases (n : Nat) (s : State) :
    (s.rxLen.toNat < n ∧ replyError n s = some .shortRead) ∨
    (n ≤ s.rxLen.toNat ∧ s.rxBuf[0] ≠ 0xFB ∧ replyError n s = some .malformed) ∨
    (n ≤ s.rxLen.toNat ∧ s.rxBuf[0] = 0xFB ∧ replyError n s = none) := by
  by_cases h : s.rxLen.toNat < n
  · exact .inl ⟨h, replyError_short h⟩
  · by_cases hh : s.rxBuf[0] = 0xFB
    · exact .inr (.inr ⟨by omega, hh, replyError_ok (by omega) hh⟩)
    · exact .inr (.inl ⟨by omega, hh, replyError_header (by omega) hh⟩)

/-- The four cases of DEC_POS's checks. -/
theorem positionError_cases (s : State) :
    (s.rxLen.toNat < 10 ∧ positionError s = some .shortRead) ∨
    (10 ≤ s.rxLen.toNat ∧ s.rxBuf[0] ≠ 0xFB ∧ positionError s = some .malformed) ∨
    (10 ≤ s.rxLen.toNat ∧ s.rxBuf[0] = 0xFB ∧ s.rxBuf[1] ≠ s.params.devAddr ∧ positionError s = some .protoMismatch) ∨
    (10 ≤ s.rxLen.toNat ∧ s.rxBuf[0] = 0xFB ∧ s.rxBuf[1] = s.params.devAddr ∧ positionError s = none) := by
  unfold positionError
  rcases replyError_cases 10 s with ⟨h, e⟩ | ⟨h, hh, e⟩ | ⟨h, hh, e⟩
  · exact .inl ⟨h, by rw [e]⟩
  · exact .inr (.inl ⟨h, hh, by rw [e]⟩)
  · by_cases ha : s.rxBuf[1] = s.params.devAddr
    · exact .inr (.inr (.inr ⟨h, hh, ha, by simp [e, ha]⟩))
    · exact .inr (.inr (.inl ⟨h, hh, ha, by simp [e, ha]⟩))

end Sys2Proof.Machine
end

