-- ==== Sys2Proof/Laws/Encoder.lean ====
section
/-! SUPPORT. The move frame's operands as bits and numbers (30_encoding.md R69, 41_encoder.md R86). -/

namespace Sys2Proof.Machine

theorem speedOf_toNat (p : Params) : (speedOf p).toNat = p.speedHi.toNat * 2 ^ 8 + p.speedLo.toNat := be16_toNat _ _

theorem moveRejected_iff (p : Params) :
    moveRejected p = true ↔ 1600 < p.speedHi.toNat * 2 ^ 8 + p.speedLo.toNat ∨ 32 < p.accel.toNat := by
  simp only [moveRejected, Bool.or_eq_true, decide_eq_true_eq, speedOf_toNat]

theorem moveRejected_false_iff (p : Params) :
    moveRejected p = false ↔ p.speedHi.toNat * 2 ^ 8 + p.speedLo.toNat ≤ 1600 ∧ p.accel.toNat ≤ 32 := by
  rw [← Bool.not_eq_true, moveRejected_iff]
  omega

/-- Bits of a group's low half come from its low byte. -/
theorem be16_low (hi lo : Byte) (k n : Nat) (h : k + n ≤ 8) : (be16 hi lo).extractLsb' k n = lo.extractLsb' k n := by
  apply BitVec.eq_of_toNat_eq
  rw [BitVec.extractLsb'_toNat, BitVec.extractLsb'_toNat, Nat.shiftRight_eq_div_pow, Nat.shiftRight_eq_div_pow, be16_toNat]
  have e : 2 ^ 8 = 2 ^ k * (2 ^ n * 2 ^ (8 - k - n)) := by rw [← Nat.pow_add, ← Nat.pow_add]; congr 1; omega
  rw [e, Nat.add_comm, show hi.toNat * (2 ^ k * (2 ^ n * 2 ^ (8 - k - n))) = 2 ^ k * (2 ^ n * (2 ^ (8 - k - n) * hi.toNat))
    by ring, Nat.add_mul_div_left _ _ (by positivity), Nat.add_mul_mod_self_left]

/-- Byte 4 of the move frame is `0b0000:S[3:0]` (30_encoding.md R69). -/
theorem moveByte4 (sp : BitVec 16) : (sp &&& 0x0F).setWidth 8 = 0#4 ++ sp.extractLsb' 0 4 := by
  apply BitVec.eq_of_toNat_eq
  have h : (0#4 ++ sp.extractLsb' 0 4 : BitVec (4 + 4)).toNat = sp.toNat % 2 ^ 4 := by
    rw [append_toNat, BitVec.extractLsb'_toNat]
    simp
  have e : (sp &&& 0x0F).toNat = sp.toNat % 2 ^ 4 := Nat.and_two_pow_sub_one_eq_mod sp.toNat 4
  rw [BitVec.toNat_setWidth, e]
  refine Eq.trans ?_ h.symm
  omega

/-- Byte 3 of the move frame is `d:0b000:S[7:4]` (30_encoding.md R69). -/
theorem moveByte3 (d : BitVec 1) (sp : BitVec 16) :
    (d.setWidth 8 <<< 7) ||| (((sp >>> 4) &&& 0x0F).setWidth 8) = d ++ 0#3 ++ sp.extractLsb' 4 4 := by
  have h : ((sp >>> 4) &&& 0x0F).setWidth 8 = 0#4 ++ sp.extractLsb' 4 4 := by
    rw [moveByte4]
    congr 1
  rw [h]
  generalize sp.extractLsb' 4 4 = n
  revert d n
  decide

/-- The move frame with its packed bytes as bit fields (30_encoding.md R69). -/
theorem moveFrame_bits (a : Byte) (d : BitVec 1) (sp : BitVec 16) (g : Byte) (p : BitVec 32) :
    moveFrame a d sp g p =
      withChecksum [0xFA, a, 0xFD, d ++ 0#3 ++ sp.extractLsb' 4 4, 0#4 ++ sp.extractLsb' 0 4, g,
        byteAt p 3, byteAt p 2, byteAt p 1, byteAt p 0] := by
  rw [moveFrame, moveByte3, moveByte4]

/-- The move frame depends on the speed's low byte only (41_encoder.md R88). -/
theorem moveFrame_be16 (a : Byte) (d : BitVec 1) (hi lo : Byte) (g : Byte) (p : BitVec 32) :
    moveFrame a d (be16 hi lo) g p =
      withChecksum [0xFA, a, 0xFD, d ++ 0#3 ++ lo.extractLsb' 4 4, 0#4 ++ lo.extractLsb' 0 4, g,
        byteAt p 3, byteAt p 2, byteAt p 1, byteAt p 0] := by
  rw [moveFrame_bits, be16_low hi lo 4 4 (by omega), be16_low hi lo 0 4 (by omega)]

end Sys2Proof.Machine
end

