-- ==== Sys2Proof/Laws/Step.lean ====
section
/-! SUPPORT. The schedule and the step: what the next turn is, and all that a completing step can be. -/

namespace Sys2Proof.Machine

theorem nextTurn_nil (s : State) (h : s.events = []) : nextTurn s = .core s := by simp [nextTurn, h]

theorem nextTurn_core (s : State) (rest : List Event) (h : s.events = .core :: rest) :
    nextTurn s = .core { s with events := rest } := by simp [nextTurn, h]

theorem nextTurn_reset (s : State) (rest : List Event) (h : s.events = .reset :: rest) :
    nextTurn s = .reset { s with events := rest } := by simp [nextTurn, h]

theorem nextTurn_instr (s : State) (p : Packet) (i : Instr) (rest : List Event) (h : s.events = .packet p :: rest)
    (hp : decode p = .ok i) : nextTurn s = .instr i { s with events := rest } := by simp [nextTurn, h, hp]

theorem nextTurn_undecodable (s : State) (p : Packet) (e : DecodeError) (rest : List Event)
    (h : s.events = .packet p :: rest) (hp : decode p = .error e) : nextTurn s = .undecodable e := by
  simp [nextTurn, h, hp]

/-- All that a completing step can be: an instruction of the host, a turn of the core, or a reset, in the state whose
schedule has lost its oldest event (or is empty). -/
theorem step_next {s t : State} (h : step s = .next t) :
    (∃ p i rest, s.events = .packet p :: rest ∧ decode p = .ok i ∧ exec i { s with events := rest } = .next t) ∨
    (∃ rest, (s.events = .core :: rest ∨ s.events = [] ∧ rest = []) ∧ t = coreTurn { s with events := rest }) ∨
    (∃ rest, s.events = .reset :: rest ∧ t = resetRegisters { s with events := rest }) := by
  obtain ⟨st, fm, pa, tl, tb, rl, rb, ca, po, pe, rd, dr, ev⟩ := s
  match ev, h with
  | [], h =>
    refine .inr (.inl ⟨[], .inr ⟨rfl, rfl⟩, ?_⟩)
    injection h with h
    exact h.symm
  | .core :: rest, h =>
    refine .inr (.inl ⟨rest, .inl rfl, ?_⟩)
    injection h with h
    exact h.symm
  | .reset :: rest, h =>
    refine .inr (.inr ⟨rest, rfl, ?_⟩)
    injection h with h
    exact h.symm
  | .packet p :: rest, h =>
    cases hp : decode p with
    | ok i =>
      refine .inl ⟨p, i, rest, rfl, hp, ?_⟩
      simpa [step, nextTurn, hp] using h
    | error e => simp [step, nextTurn, hp] at h

end Sys2Proof.Machine
end

