-- ==== Sys2Proof/Laws/Exec.lean ====
section
/-! SUPPORT. All that `exec` can be: one of four host actions. A run, one step at a time, and its
end. -/

namespace Sys2Proof.Machine

@[simp] theorem andThen_next (s : State) (f : State → Host.Outcome State Fault Refusal) : andThen (.next s) f = f s := rfl

@[simp] theorem andThen_fault (r : Fault) (f : State → Host.Outcome State Fault Refusal) :
    andThen (.fault r) f = .fault r := rfl

@[simp] theorem andThen_refused (r : Refusal) (f : State → Host.Outcome State Fault Refusal) :
    andThen (.refused r) f = .refused r := rfl

/-- An instruction is one MemWrite, one MemRead, the sending of a frame, or the loading of a reply of at most ten
bytes. -/
theorem exec_forms (i : Instr) (s : State) :
    (∃ a v, exec i s = memWrite a v s ∧ writesRegisters i = true ∧ startsCommand i = (regAt a == .cmd)) ∨
    (∃ a, exec i s = .next (memRead a s) ∧ writesRegisters i = false ∧ startsCommand i = false) ∨
    (exec i s = .next s ∧ writesRegisters i = false ∧ startsCommand i = false) ∨
    (∃ b bs, exec i s = rxLoad (b :: bs) s ∧ bs.length < 10 ∧ writesRegisters i = true ∧ startsCommand i = false) := by
  cases i with
  | encPing => exact .inl ⟨_, _, rfl, rfl, by decide⟩
  | encGetpos => exact .inl ⟨_, _, rfl, rfl, by decide⟩
  | encMove => exact .inl ⟨_, _, rfl, rfl, by decide⟩
  | decPing => exact .inl ⟨_, _, rfl, rfl, by decide⟩
  | decMoveack => exact .inl ⟨_, _, rfl, rfl, by decide⟩
  | decPos => exact .inl ⟨_, _, rfl, rfl, by decide⟩
  | csumClr => exact .inl ⟨_, _, rfl, rfl, by decide⟩
  | cmdIllegal d => exact .inl ⟨_, _, rfl, rfl, rfl⟩
  | csumIn d => exact .inl ⟨_, _, rfl, rfl, rfl⟩
  | wr a d => exact .inl ⟨_, _, rfl, rfl, rfl⟩
  | rd a d => exact .inr (.inl ⟨_, rfl, rfl, rfl⟩)
  | framePing a c => exact .inr (.inr (.inl ⟨rfl, rfl, rfl⟩))
  | frameGetpos a c => exact .inr (.inr (.inl ⟨rfl, rfl, rfl⟩))
  | frameMove a d s t g p c => exact .inr (.inr (.inl ⟨rfl, rfl, rfl⟩))
  | frameStatusReply a e r => exact .inr (.inr (.inr ⟨_, _, rfl, by simp, rfl, rfl⟩))
  | framePosReply a e k v z => exact .inr (.inr (.inr ⟨_, _, rfl, by simp, rfl, rfl⟩))

/-- All that a completing instruction can be: a store while BUSY = 0, a read, nothing, or a loaded reply. -/
theorem exec_next {i : Instr} {s t : State} (h : exec i s = .next t) :
    (∃ a v, s.status.busy = false ∧ t = storeReg (regAt a) v s ∧ startsCommand i = (regAt a == .cmd)) ∨
    (∃ b n, t = { s with rdata := b, draws := n } ∧ startsCommand i = false) ∨
    (s.status.busy = false ∧ startsCommand i = false ∧
      ∃ bs : List Byte, t = { s with rxBuf := overlay s.rxBuf bs, rxLen := BitVec.ofNat 4 bs.length }) := by
  rcases exec_forms i s with ⟨a, v, e, _, c⟩ | ⟨a, e, _, c⟩ | ⟨e, _, c⟩ | ⟨b, bs, e, hl, _, c⟩ <;> rw [e] at h
  · exact .inl ⟨a, v, (memWrite_next h).1, (memWrite_next h).2, c⟩
  · injection h with h
    obtain ⟨b, n, hm⟩ := memRead_eq a s
    exact .inr (.inl ⟨b, n, by rw [← h, hm], c⟩)
  · injection h with h
    exact .inr (.inl ⟨s.rdata, s.draws, by rw [← h], c⟩)
  · cases hb : s.status.busy with
    | true => rw [rxLoad_busy _ _ _ hb] at h; contradiction
    | false =>
      rw [rxLoad_idle _ _ hb (by simp; omega)] at h
      injection h with h
      exact .inr (.inr ⟨rfl, c, b :: bs, h.symm⟩)

/-! ### What a packet does -/

/-- The code of a command is its row's (30_encoding.md R63). -/
theorem commandOf_code (d : Byte) :
    (commandOf d = .encPing ↔ d = 0x01) ∧ (commandOf d = .encGetpos ↔ d = 0x02) ∧ (commandOf d = .encMove ↔ d = 0x03) ∧
    (commandOf d = .decPing ↔ d = 0x04) ∧ (commandOf d = .decMoveack ↔ d = 0x05) ∧ (commandOf d = .decPos ↔ d = 0x06) ∧
    (commandOf d = .csumClr ↔ d = 0x07) ∧ (commandOf d = .illegal ↔ d.toNat = 0 ∨ 8 ≤ d.toNat) := by
  revert d
  decide

/-- Whatever row a write word matches, its instruction is the word's MemWrite. -/
theorem exec_writeInstr (a d : Byte) (s : State) : exec (writeInstr a d) s = memWrite a d s := by
  unfold writeInstr
  by_cases ha : a = 0x00
  · rw [if_pos ha, ha]
    obtain ⟨k1, k2, k3, k4, k5, k6, k7, _⟩ := commandOf_code d
    cases h : commandOf d with
    | encPing => rw [k1.mp h]; rfl
    | encGetpos => rw [k2.mp h]; rfl
    | encMove => rw [k3.mp h]; rfl
    | decPing => rw [k4.mp h]; rfl
    | decMoveack => rw [k5.mp h]; rfl
    | decPos => rw [k6.mp h]; rfl
    | csumClr => rw [k7.mp h]; rfl
    | illegal => rfl
  · rw [if_neg ha]
    by_cases hf : a = 0x0F
    · rw [if_pos hf, hf]; rfl
    · rw [if_neg hf]; rfl

/-- A frame on the link is one of the five wire instructions. -/
theorem decodeLink_forms {bs : List Byte} {i : Instr} (h : decodeLink bs = .ok i) :
    (∀ s, exec i s = .next s) ∨ (∃ b cs, cs.length < 10 ∧ ∀ s, exec i s = rxLoad (b :: cs) s) := by
  cases i with
  | framePing a c => exact .inl fun _ => rfl
  | frameGetpos a c => exact .inl fun _ => rfl
  | frameMove a d x y g p c => exact .inl fun _ => rfl
  | frameStatusReply a e r => exact .inr ⟨_, _, by simp, fun _ => rfl⟩
  | framePosReply a e k v z =>
    exact .inr ⟨_, [a, e, byteAt k 3, byteAt k 2, byteAt k 1, byteAt k 0, byteAt v 1, byteAt v 0, z], by simp, fun _ => rfl⟩
  | _ =>
    exfalso
    unfold decodeLink decodeLink4 decodeLink10 decodeLink11 at h
    split at h <;> (repeat' split at h) <;> first | contradiction | (injection h with h; contradiction)

/-- What a packet that decodes does: the MemWrite or MemRead of a host word, or what a frame does. -/
theorem decode_forms {p : Packet} {i : Instr} (h : decode p = .ok i) :
    (∃ a d, p = .host (writeWord a d) ∧ ∀ s, exec i s = memWrite a d s) ∨
    (∃ a d, p = .host (readWord a d) ∧ ∀ s, exec i s = .next (memRead a s)) ∨
    (∀ s, exec i s = .next s) ∨ (∃ b cs, cs.length < 10 ∧ ∀ s, exec i s = rxLoad (b :: cs) s) := by
  cases p with
  | host w =>
    rcases word_cases w with hw | hw
    · refine .inl ⟨fieldA w, fieldD w, by rw [← hw], fun s => ?_⟩
      have e : decodeHost w = .ok i := h
      rw [hw, decodeHost_writeWord] at e
      injection e with e
      rw [← e]
      exact exec_writeInstr _ _ s
    · refine .inr (.inl ⟨fieldA w, fieldD w, by rw [← hw], fun s => ?_⟩)
      have e : decodeHost w = .ok i := h
      rw [hw, decodeHost_readWord] at e
      injection e with e
      rw [← e]
      rfl
  | link bs => exact .inr (.inr (decodeLink_forms h))

/-- All that a completing packet can be. -/
theorem packet_next {p : Packet} {i : Instr} {s t : State} (hd : decode p = .ok i) (h : exec i s = .next t) :
    (∃ a v, p = .host (writeWord a v) ∧ s.status.busy = false ∧ t = storeReg (regAt a) v s) ∨
    (∃ b n, t = { s with rdata := b, draws := n }) ∨
    (s.status.busy = false ∧
      ∃ bs : List Byte, t = { s with rxBuf := overlay s.rxBuf bs, rxLen := BitVec.ofNat 4 bs.length }) := by
  rcases decode_forms hd with ⟨a, d, hp, he⟩ | ⟨a, d, hp, he⟩ | he | ⟨b, cs, hl, he⟩ <;> rw [he] at h
  · exact .inl ⟨a, d, hp, memWrite_next h⟩
  · injection h with h
    obtain ⟨b, n, hm⟩ := memRead_eq a s
    exact .inr (.inl ⟨b, n, by rw [← h, hm]⟩)
  · injection h with h
    exact .inr (.inl ⟨s.rdata, s.draws, by rw [← h]⟩)
  · cases hb : s.status.busy with
    | true => rw [rxLoad_busy _ _ _ hb] at h; contradiction
    | false =>
      rw [rxLoad_idle _ _ hb (by simp; omega)] at h
      injection h with h
      exact .inr (.inr ⟨rfl, b :: cs, h.symm⟩)

/-! ### Runs -/

theorem run_zero (s : State) : Host.Core.run Sys2Proof.core 0 s = .next s := rfl

/-- A run goes on from what its first step leaves. -/
theorem run_next {s t : State} (h : step s = .next t) (k : Nat) :
    Host.Core.run Sys2Proof.core (k + 1) s = Host.Core.run Sys2Proof.core k t := by
  simp [Host.Core.run, Sys2Proof.core, h]

/-- A run that completes: its first step completes, and the rest of it from there. -/
theorem run_completes {s u : State} {k : Nat} (h : Host.Core.run Sys2Proof.core (k + 1) s = .next u) :
    ∃ t, step s = .next t ∧ Host.Core.run Sys2Proof.core k t = .next u := by
  cases hs : step s with
  | next t => exact ⟨t, rfl, by rw [← run_next hs]; exact h⟩
  | fault r => simp [Host.Core.run, Sys2Proof.core, hs] at h
  | refused r => simp [Host.Core.run, Sys2Proof.core, hs] at h

/-- A run in two parts. -/
theorem run_add {s t : State} {j : Nat} (h : Host.Core.run Sys2Proof.core j s = .next t) (k : Nat) :
    Host.Core.run Sys2Proof.core (j + k) s = Host.Core.run Sys2Proof.core k t := by
  induction j generalizing s with
  | zero => injection h with h; rw [Nat.zero_add, h]
  | succ j ih =>
    obtain ⟨u, h1, h2⟩ := run_completes h
    rw [Nat.add_right_comm, run_next h1, ih h2]

/-! ### The end of a run -/

theorem runEnded_iff (s : State) :
    runEnded s = true ↔ (∀ e ∈ s.events, isTransaction e = false) ∧ s.status.busy = false := by
  simp [runEnded]

/-- What `runToEnd` answers at a point where the run has ended. -/
theorem runToEnd_ended {s : State} (h : runEnded s = true) (k : Nat) : runToEnd k s = some s := by
  cases k <;> simp [runToEnd, h]

/-- What `runToEnd` answers where the run goes on: what it answers after the step. -/
theorem runToEnd_next {s t : State} (h : runEnded s = false) (hs : step s = .next t) (k : Nat) :
    runToEnd (k + 1) s = runToEnd k t := by simp [runToEnd, h, hs]

/-- All that an answer of `runToEnd` can be: this state, or what it answers after the step. -/
theorem runToEnd_some {s u : State} {k : Nat} (h : runToEnd k s = some u) :
    (runEnded s = true ∧ u = s) ∨
      (runEnded s = false ∧ ∃ t j, k = j + 1 ∧ step s = .next t ∧ runToEnd j t = some u) := by
  cases he : runEnded s with
  | true => rw [runToEnd_ended he] at h; injection h with h; exact .inl ⟨rfl, h.symm⟩
  | false =>
    cases k with
    | zero => simp [runToEnd, he] at h
    | succ j =>
      cases hs : step s with
      | next t => rw [runToEnd_next he hs] at h; exact .inr ⟨rfl, t, j, rfl, rfl, h⟩
      | fault r => simp [runToEnd, he, hs] at h
      | refused r => simp [runToEnd, he, hs] at h

end Sys2Proof.Machine
end

