-- ==== Sys2Proof/Laws/PerInstr.lean ====
section
/-! SUPPORT. Families of statements made per constructor of Instr. -/

namespace Sys2Proof.Laws

/-- The length in bytes of the frame a row describes, 0 for a host row (30_encoding.md R75). -/
def frameBytes : Instr → Nat
  | .encPing | .encGetpos | .encMove | .decPing | .decMoveack | .decPos | .csumClr | .cmdIllegal _ | .csumIn _ | .wr _ _
  | .rd _ _ => 0
  | .framePing _ _ | .frameGetpos _ _ | .frameStatusReply _ _ _ => 4
  | .frameMove _ _ _ _ _ _ _ => 11
  | .framePosReply _ _ _ _ _ => 10

namespace EncodedLength

/-- A host row is encoded as one host word (30_encoding.md R59), a wire row as a frame of its fixed length (R75). -/
def Statement (i : Instr) : Prop :=
  match encode i with
  | .host _ => frameBytes i = 0
  | .link bs => bs.length = frameBytes i

theorem encPing : Statement .encPing := rfl
theorem encGetpos : Statement .encGetpos := rfl
theorem encMove : Statement .encMove := rfl
theorem decPing : Statement .decPing := rfl
theorem decMoveack : Statement .decMoveack := rfl
theorem decPos : Statement .decPos := rfl
theorem csumClr : Statement .csumClr := rfl
theorem cmdIllegal (d : Byte) : Statement (.cmdIllegal d) := rfl
theorem csumIn (d : Byte) : Statement (.csumIn d) := rfl
theorem wr (a d : Byte) : Statement (.wr a d) := rfl
theorem rd (a d : Byte) : Statement (.rd a d) := rfl
theorem framePing (a c : Byte) : Statement (.framePing a c) := rfl
theorem frameGetpos (a c : Byte) : Statement (.frameGetpos a c) := rfl
theorem frameMove (a : Byte) (d : BitVec 1) (s t : BitVec 4) (g : Byte) (p : BitVec 32) (c : Byte) :
    Statement (.frameMove a d s t g p c) := rfl
theorem frameStatusReply (a e r : Byte) : Statement (.frameStatusReply a e r) := rfl
theorem framePosReply (a e : Byte) (k : BitVec 32) (v : BitVec 16) (z : Byte) :
    Statement (.framePosReply a e k v z) := rfl

end EncodedLength

end Sys2Proof.Laws
end

