-- ==== Sys2Proof/Tests/Slice0.lean ====
section
/-! SUPPORT. Tests: ill-formed terms the check refuses, words written out from the spec's encodings, the spec's own test
vectors (95_test_vectors.md, named in each comment), and for every statement with hypotheses a witness that meets them. -/

namespace Sys2Proof.Tests

open Sys2Proof.Machine

/-! ### Helpers -/

/-- Does the outcome go on, in a state with the property? -/
def goesOn (o : Host.Outcome State Fault Refusal) (p : State → Bool) : Bool :=
  match o with
  | .next t => p t
  | .fault _ => false
  | .refused _ => false

/-- The reset state with a command pending. -/
def pendingState (c : Byte) : State := latchCommand c State.reset

/-- The reset state with the device address set. -/
def device (a : Byte) : State := { State.reset with params := { State.reset.params with devAddr := a } }

/-- The move parameters of a vector, all else as after reset. -/
def moveState (a : Byte) (d : BitVec 1) (hi lo g p3 p2 p1 p0 : Byte) : State :=
  { State.reset with
    params :=
      { devAddr := a, dir := d, accel := g, speedHi := hi, speedLo := lo, pulses3 := p3, pulses2 := p2, pulses1 := p1
        pulses0 := p0 } }

/-- Vector M1: move, device 1, forward, speed 800, acceleration 10, 100000 pulses. -/
def m1 : State := moveState 0x01 1 0x03 0x20 0x0A 0x00 0x01 0x86 0xA0

/-- A reply of the given length in RX_BUF, DEVADDR 1. -/
def replyState (n : BitVec 4) (b : Vector Byte 10) : State := { device 0x01 with rxLen := n, rxBuf := b }

/-- A status reply of full length. -/
def statusReply (b0 b1 b2 b3 : Byte) : State := replyState 4 #v[b0, b1, b2, b3, 0, 0, 0, 0, 0, 0]

/-- A position reply of full length from device 1. -/
def positionReply (fmt : BitVec 1) (c3 c2 c1 c0 v1 v0 : Byte) : State :=
  { replyState 10 #v[0xFB, 0x01, 0x30, c3, c2, c1, c0, v1, v0, 0x00] with fmt := fmt }

/-- The state after the CMD write of code `c` and the core step. -/
def after (c : Byte) (s : State) : State := coreStep (latchCommand c s)

/-- The state whose schedule is the given one. -/
def scheduled (ev : List Event) (s : State) : State := { s with events := ev }

/-! ### WellFormed: ill-formed terms (30_encoding.md R61, R66 to R69) -/

theorem test_wf_refuses_illegal_with_command_code :
    Instr.wf (.cmdIllegal 0x01) = false ∧ Instr.wf (.cmdIllegal 0x03) = false ∧ Instr.wf (.cmdIllegal 0x07) = false := by
  decide

theorem test_wf_refuses_generic_write_to_cmd_and_csum_in :
    Instr.wf (.wr 0x00 0x01) = false ∧ Instr.wf (.wr 0x0F 0x01) = false := by decide

theorem test_wf_refuses_ping_frame_with_wrong_checksum : Instr.wf (.framePing 0x01 0x36) = false := by decide

theorem test_wf_refuses_getpos_frame_with_wrong_checksum : Instr.wf (.frameGetpos 0x01 0x35) = false := by decide

theorem test_wf_refuses_move_frame_with_wrong_checksum :
    Instr.wf (.frameMove 0x01 1 0x2 0x0 0x0A 0x000186A0 0xAC) = false := by decide

/-- Acceleration 33 with the checksum that would be right: FA 01 FD 00 00 21 00 00 00 00 sum to 0x19. -/
theorem test_wf_refuses_move_frame_with_acceleration_33 :
    Instr.wf (.frameMove 0x01 0 0x0 0x0 0x21 0x00000000 0x19) = false := by decide

theorem test_wf_admits_every_row :
    Instr.wf .encPing = true ∧ Instr.wf (.cmdIllegal 0x00) = true ∧ Instr.wf (.cmdIllegal 0x08) = true ∧
    Instr.wf (.csumIn 0x3A) = true ∧ Instr.wf (.wr 0x03 0x01) = true ∧ Instr.wf (.rd 0x01 0x00) = true ∧
    Instr.wf (.framePing 0x01 0x35) = true ∧ Instr.wf (.frameGetpos 0x01 0x2B) = true ∧
    Instr.wf (.frameMove 0x01 1 0x2 0x0 0x0A 0x000186A0 0xAB) = true ∧ Instr.wf (.frameStatusReply 0x01 0x3A 0x00) = true ∧
    Instr.wf (.framePosReply 0x01 0x30 0x00000001 0x4000 0x00) = true := by decide

/-! ### Decoding: words by their fields W, A, D, bit by bit (30_encoding.md R59, R63, R64) -/

theorem test_decode_encoder_commands :
    decode (.host 0b1_00000000_00000001#17) = .ok .encPing ∧ decode (.host 0b1_00000000_00000010#17) = .ok .encGetpos ∧
    decode (.host 0b1_00000000_00000011#17) = .ok .encMove := by decide

theorem test_decode_decoder_commands :
    decode (.host 0b1_00000000_00000100#17) = .ok .decPing ∧ decode (.host 0b1_00000000_00000101#17) = .ok .decMoveack ∧
    decode (.host 0b1_00000000_00000110#17) = .ok .decPos := by decide

theorem test_decode_checksum_family :
    decode (.host 0b1_00000000_00000111#17) = .ok .csumClr ∧
    decode (.host 0b1_00001111_00111010#17) = .ok (.csumIn 0x3A) := by decide

/-- H2, H3, H4: 0x10000, 0x10008, 0x100FF. -/
theorem test_decode_illegal_codes :
    decode (.host 0b1_00000000_00000000#17) = .ok (.cmdIllegal 0x00) ∧
    decode (.host 0b1_00000000_00001000#17) = .ok (.cmdIllegal 0x08) ∧
    decode (.host 0b1_00000000_11111111#17) = .ok (.cmdIllegal 0xFF) := by decide

/-- H6's write (0x11B55), P1's first word (0x10301), H5's read (0x04000), and a read of CSUM_IN (0x00F00). -/
theorem test_decode_bus :
    decode (.host 0b1_00011011_01010101#17) = .ok (.wr 0x1B 0x55) ∧
    decode (.host 0b1_00000011_00000001#17) = .ok (.wr 0x03 0x01) ∧
    decode (.host 0b0_01000000_00000000#17) = .ok (.rd 0x40 0x00) ∧
    decode (.host 0b0_00001111_00000000#17) = .ok (.rd 0x0F 0x00) := by decide

/-- E2, E6, M1: the command frames for device 1 (30_encoding.md R66 to R68). -/
theorem test_decode_command_frames :
    decode (.link [0xFA, 0x01, 0x3A, 0x35]) = .ok (.framePing 0x01 0x35) ∧
    decode (.link [0xFA, 0x01, 0x30, 0x2B]) = .ok (.frameGetpos 0x01 0x2B) ∧
    decode (.link [0xFA, 0x01, 0xFD, 0x82, 0x00, 0x0A, 0x00, 0x01, 0x86, 0xA0, 0xAB]) =
      .ok (.frameMove 0x01 1 0x2 0x0 0x0A 0x000186A0 0xAB) := by decide

/-- T2 and X1: the replies (30_encoding.md R70, R71). -/
theorem test_decode_replies :
    decode (.link [0xFB, 0x01, 0xFD, 0x01]) = .ok (.frameStatusReply 0x01 0xFD 0x01) ∧
    decode (.link [0xFB, 0x01, 0x30, 0x00, 0x00, 0x00, 0x01, 0x40, 0x00, 0x00]) =
      .ok (.framePosReply 0x01 0x30 0x00000001 0x4000 0x00) := by decide

/-- Bytes that are no frame, one for each reason (30_encoding.md R65, R68, R75). -/
theorem test_decode_rejects_by_name :
    decode (.link [0xFA, 0x01, 0x3A]) = .error .badLength ∧ decode (.link []) = .error .badLength ∧
    decode (.link [0xFC, 0x01, 0x3A, 0x35]) = .error .badHeader ∧
    decode (.link [0xFA, 0x01, 0x31, 0x2C]) = .error .badOpcode ∧
    decode (.link [0xFA, 0x01, 0xFD, 0xC2, 0x00, 0x0A, 0x00, 0x01, 0x86, 0xA0, 0xEB]) = .error .badReservedBits := by decide

/-- The opcode table's numbering of a 17-bit row and of the frames (log 13). -/
theorem test_decode_table_words :
    decodeTableWord 24 0x10001 = some .encPing ∧ decodeTableWord 24 0x20001 = none ∧
    decodeTableWord 32 0xFA013A35 = some (.framePing 0x01 0x35) ∧
    decodeTableWord 80 0xFB013000000001400000 = some (.framePosReply 0x01 0x30 0x00000001 0x4000 0x00) ∧
    decodeTableWord 88 0xFA01FD82000A000186A0AB = some (.frameMove 0x01 1 0x2 0x0 0x0A 0x000186A0 0xAB) := by decide

/-! ### The first step after reset -/

theorem test_first_step_latches_the_command :
    goesOn (step (State.reset.withFetchWord 24 0x10006)) (fun t => t.status.busy && t.pending == 0x06) = true := by decide

theorem test_first_step_loads_a_reply :
    goesOn (step (State.reset.withFetchWord 32 0xFB01FD01))
      (fun t => t.rxLen == 4 && t.rxBuf == #v[0xFB, 0x01, 0xFD, 0x01, 0, 0, 0, 0, 0, 0]) = true := by decide

/-! ### Encoder family -/

/-- E2. -/
theorem test_enc_ping :
    (after 0x01 (device 0x01)).txBuf = #v[0xFA, 0x01, 0x3A, 0x35, 0, 0, 0, 0, 0, 0, 0] ∧
    (after 0x01 (device 0x01)).txLen = 4 := by decide

/-- E3: the sum wraps to 0x00. -/
theorem test_enc_ping_wraps : (after 0x01 (device 0xCC)).txBuf[3] = 0x00 := by decide

/-- E7. -/
theorem test_enc_getpos : (after 0x02 (device 0xD6)).txBuf = #v[0xFA, 0xD6, 0x30, 0x00, 0, 0, 0, 0, 0, 0, 0] := by decide

/-- E9: a ping after a move keeps TX_BUF[4..10]. -/
theorem test_enc_ping_after_move :
    (after 0x01 (after 0x03 m1)).txBuf = #v[0xFA, 0x01, 0x3A, 0x35, 0x00, 0x0A, 0x00, 0x01, 0x86, 0xA0, 0xAB] := by decide

/-- M1. -/
theorem test_enc_move :
    (after 0x03 m1).txBuf = #v[0xFA, 0x01, 0xFD, 0x82, 0x00, 0x0A, 0x00, 0x01, 0x86, 0xA0, 0xAB] := by decide

/-- V10: a rejected move keeps TX_BUF and clears TX_LEN. -/
theorem test_enc_move_rejected :
    let s := after 0x03 { after 0x03 m1 with params := { m1.params with speedHi := 0x06, speedLo := 0x41 } }
    s.txBuf = #v[0xFA, 0x01, 0xFD, 0x82, 0x00, 0x0A, 0x00, 0x01, 0x86, 0xA0, 0xAB] ∧ s.txLen = 0 ∧
      s.status.err = .validation := by decide

/-! ### Decoder family -/

/-- T1 and T9: STATUS 0x08, and 0x02 because SHORT_READ comes before MALFORMED. -/
theorem test_dec_ping :
    statusByte (after 0x04 (statusReply 0xFB 0x01 0x3A 0x00)).status = 0x08 ∧
    statusByte (after 0x04 (replyState 3 #v[0xFA, 0x01, 0x3A, 0, 0, 0, 0, 0, 0, 0])).status = 0x02 := by decide

/-- T2, T4, T6. -/
theorem test_dec_moveack :
    statusByte (after 0x05 (statusReply 0xFB 0x01 0xFD 0x01)).status = 0x08 ∧
    statusByte (after 0x05 (statusReply 0xFB 0x01 0xFD 0x02)).status = 0x00 ∧
    statusByte (after 0x05 (statusReply 0xFA 0x01 0x3A 0x01)).status = 0x03 := by decide

/-- X12, both formulas. -/
theorem test_dec_pos :
    (after 0x06 (positionReply 0 0xFF 0xFF 0xFF 0xFE 0x03 0xE7)).pos.result = 0xFFFFFFFFFFFFFD45 ∧
    (after 0x06 (positionReply 1 0xFF 0xFF 0xFF 0xFE 0x03 0xE7)).pos.result = 0xFFFFFFFFFFFF83E9 := by decide

/-- Q4, and X15: the position of X1 stays. -/
theorem test_dec_pos_mismatch :
    let s := after 0x06 { after 0x06 (positionReply 0 0x00 0x00 0x00 0x01 0x40 0x00) with
      rxBuf := #v[0xFB, 0x02, 0x30, 0, 0, 0, 0, 0, 0, 0] }
    statusByte s.status = 0x04 ∧ s.pos.carry = 0x00000001 ∧ s.pos.value = 0x4000 ∧
      s.pos.result = 0x00000000000002D0 := by decide

/-! ### Checksum family, illegal commands, the bus -/

/-- K2: FA 01 3A give 0x35. -/
theorem test_csum_in :
    (addToChecksum 0x3A (addToChecksum 0x01 (addToChecksum 0xFA State.reset))).csumAcc = 0x35 ∧
    checksum [0xFA, 0x01, 0x3A] = 0x35 := by decide

/-- K11. -/
theorem test_csum_clr :
    (after 0x07 { State.reset with csumAcc := 0x35 }).csumAcc = 0x00 ∧
    statusByte (after 0x07 { State.reset with csumAcc := 0x35 }).status = 0x00 := by decide

/-- H3. -/
theorem test_cmd_illegal : statusByte (after 0x08 State.reset).status = 0x05 := by decide

/-- H9, H10. -/
theorem test_wr_drops_reserved_bits :
    goesOn (exec (.wr 0x0D 0xFA) State.reset) (fun t => readByte 0x0D t == 0x0A) = true ∧
    goesOn (exec (.wr 0x02 0xFF) State.reset) (fun t => readByte 0x02 t == 0x01) = true := by decide

/-- H7: TX_LEN is read-only. -/
theorem test_wr_to_read_only : goesOn (exec (.wr 0x0C 0x07) (after 0x01 State.reset)) (fun t => t.txLen == 4) = true := by
  decide

/-- H12, and X12's POS_RESULT byte by byte: POS_RESULT_7 is at 0x38, POS_RESULT_0 at 0x3F. -/
theorem test_rd :
    goesOn (exec (.rd 0x0F 0x00) m1) (fun t => t.rdata == 0x00) = true ∧
    goesOn (exec (.rd 0x38 0x00) (after 0x06 (positionReply 0 0xFF 0xFF 0xFF 0xFE 0x03 0xE7)))
      (fun t => t.rdata == 0xFF) = true ∧
    goesOn (exec (.rd 0x3F 0x00) (after 0x06 (positionReply 0 0xFF 0xFF 0xFF 0xFE 0x03 0xE7)))
      (fun t => t.rdata == 0x45) = true := by decide

/-- H16: bit 7 of STATUS reads 1 while BUSY = 1. -/
theorem test_rd_status_while_busy :
    ∃ t, exec (.rd 0x01 0x00) (pendingState 0x01) = .next t ∧ t.rdata.getLsbD 7 = true :=
  ⟨_, rfl, busyByte_status _⟩

/-- H15. -/
theorem test_cmd_write_while_busy : exec .encPing (pendingState 0x01) = .fault .cmdWriteWhileBusy := rfl

theorem test_reply_while_busy : exec (.frameStatusReply 0x01 0x3A 0x00) (pendingState 0x01) = .fault .writeWhileBusy := rfl

theorem test_frames_sent :
    exec (.framePing 0x01 0x35) m1 = .next m1 ∧ exec (.frameGetpos 0x01 0x2B) m1 = .next m1 ∧
    exec (.frameMove 0x01 1 0x2 0x0 0x0A 0x000186A0 0xAB) m1 = .next m1 := ⟨rfl, rfl, rfl⟩

/-- Ten bytes of a position reply, with their count. -/
theorem test_position_reply :
    goesOn (exec (.framePosReply 0x01 0x30 0x00000001 0x4000 0x7F) State.reset)
      (fun t => t.rxLen == 10 && t.rxBuf == #v[0xFB, 0x01, 0x30, 0x00, 0x00, 0x00, 0x01, 0x40, 0x00, 0x7F]) = true := by
  decide

/-! ### Witnesses: the hypotheses of each statement are met -/

theorem witness_DecodeOfEncodeIsTheInstruction :
    Instr.wf .decPos = true ∧ Instr.wf (.cmdIllegal 0xFF) = true ∧ Instr.wf (.wr 0xFF 0xFF) = true ∧
    Instr.wf (.frameMove 0x01 0 0x4 0x0 0x20 0x00000000 0x1C) = true := by decide

theorem witness_DecodedLinkFrameEncodesBack :
    decode (.link [0xFA, 0x01, 0xFD, 0x80, 0x0F, 0x00, 0x12, 0x34, 0x56, 0x78, 0x9B]) =
      .ok (.frameMove 0x01 1 0x0 0xF 0x00 0x12345678 0x9B) := by decide

theorem witness_StepRunsThePlacedTableWord : decodeTableWord 32 0xFB01FD00 = some (.frameStatusReply 0x01 0xFD 0x00) := by
  decide

theorem witness_StepRunsTheDecodedInstruction :
    (scheduled [.packet (.host 0x10301), .core] State.reset).events = [.packet (.host 0x10301), .core] ∧
    decode (.host 0x10301) = .ok (.wr 0x03 0x01) := by decide

theorem witness_CoreStepsOnlyWhileBusy :
    (scheduled [.core] (pendingState 0x01)).status.busy = true ∧ (scheduled [.core] State.reset).status.busy = false ∧
    (pendingState 0x01).events = [] ∧ State.reset.events = [] := by decide

theorem witness_ResetAbandonsAndResetKeeps :
    (scheduled [.reset, .core] (pendingState 0x01)).events = [.reset, .core] := by decide

/-- The reserved addresses at the ends of their ranges. -/
theorem witness_AddressMapReads :
    0x1B ≤ (0x1B#8).toNat ∧ (0x1F#8).toNat ≤ 0x1F ∧ 0x2A ≤ (0x2A#8).toNat ∧ (0x2F#8).toNat ≤ 0x2F ∧ (0x36#8).toNat = 0x36 ∧
    (0x37#8).toNat = 0x37 ∧ 0x40 ≤ (0x40#8).toNat ∧ 0x40 ≤ (0xFF#8).toNat := by decide

theorem witness_CmdWriteOnlyLatches :
    m1.status.busy = false ∧ (pendingState 0x06).status.busy = true ∧ (pendingState 0x00).pending = 0x00 ∧
    (0x00#8).toNat = 0 ∧ (pendingState 0x08).pending = 0x08 ∧ 8 ≤ (0x08#8).toNat := by decide

/-- One address of each kind, at the ends of the ranges. -/
theorem witness_WrWritesOnlyItsRegister :
    m1.status.busy = false ∧ (pendingState 0x06).status.busy = true ∧ (0x01 : Byte) ≠ 0 ∧
    accessOf (regAt 0x02) = .rw ∧ accessOf (regAt 0x0B) = .rw ∧ accessOf (regAt 0x0D) = .rw ∧
    accessOf (regAt 0x20) = .rw ∧ accessOf (regAt 0x29) = .rw ∧ accessOf (regAt 0x01) = .ro ∧
    accessOf (regAt 0x1A) = .ro ∧ accessOf (regAt 0x3F) = .ro ∧ accessOf (regAt 0x1B) = .rsvd ∧
    accessOf (regAt 0x37) = .rsvd ∧ accessOf (regAt 0xFF) = .rsvd ∧ accessOf (regAt 0x00) = .wo ∧
    accessOf (regAt 0x0F) = .wo := by decide

theorem witness_RdReturnsTheRegister :
    m1.status.busy = false ∧ accessOf (regAt 0x0F) = .wo ∧ accessOf (regAt 0x40) = .rsvd ∧
    ∃ t, exec (.rd 0x03 0x00) m1 = .next t := ⟨by decide, by decide, by decide, _, rfl⟩

theorem witness_RdWhileBusyReadsOnlyBusyExactly : (pendingState 0x06).status.busy = true := by decide

theorem witness_CmdWriteWhileBusyFaults : (pendingState 0x01).status.busy = true := by decide

theorem witness_OtherWriteWhileBusyFaults :
    (pendingState 0x01).status.busy = true ∧ (0x01 : Byte) ≠ 0x00 ∧ (0xFF : Byte) ≠ 0x00 := by decide

theorem witness_ChecksumIsTheSumModulo256 : ([0xFA, 0x01] : List Byte).Perm [0x01, 0xFA] := List.Perm.swap _ _ _

theorem witness_CsumClrClearsTheAccumulator :
    m1.status.busy = false ∧ (pendingState 0x07).pending = 0x07 := by decide

theorem witness_CsumInAddsOneByte : m1.status.busy = false ∧ (pendingState 0x01).status.busy = true := by decide

/-- One read before the core's step, none after it, the bytes FA 01 3A of K2, and one more event. -/
def checksumRun : State :=
  scheduled
    (.packet (.host 0x10007) :: (List.replicate 1 (.packet (.host 0x00100)) ++
      .core :: (List.replicate 0 (.packet (.host 0x00100)) ++
        (([0xFA, 0x01, 0x3A] : List Byte).map (fun b => .packet (.host (1#1 ++ 0x0F#8 ++ b))) ++ [.reset]))))
    { State.reset with csumAcc := 0x77 }

theorem witness_AccumulatorHoldsTheChecksum :
    checksumRun.status.busy = false ∧ checksumRun.events.length = 7 ∧
    ∃ t, Host.Core.run Sys2Proof.core 6 checksumRun = .next t ∧ t.csumAcc = 0x35 ∧ t.events = [.reset] :=
  ⟨by decide, by decide, _, rfl, by decide, by decide⟩

theorem witness_EncPingBuildsThePingFrame :
    (device 0x01).status.busy = false ∧ (latchCommand 0x01 (device 0x01)).pending = 0x01 := by decide

theorem witness_EncGetposBuildsTheGetPositionFrame :
    (device 0x01).status.busy = false ∧ (latchCommand 0x02 (device 0x01)).pending = 0x02 := by decide

/-- V1, V2 and V8. -/
theorem witness_EncMoveRejectsParametersOutOfRange :
    (pendingState 0x03).pending = 0x03 ∧ (0x06#8).toNat * 256 + (0x41#8).toNat > 1600 ∧ (0x21#8).toNat > 32 ∧
    (0x06#8).toNat * 256 + (0x40#8).toNat ≤ 1600 ∧ (0x20#8).toNat ≤ 32 := by decide

/-- V8: speed 1600, acceleration 32. -/
def fastest : State := latchCommand 0x03 (moveState 0x01 0 0x06 0x40 0x20 0x00 0x00 0x00 0x00)

theorem witness_EncMoveBuildsTheMoveFrame :
    m1.status.busy = false ∧ fastest.pending = 0x03 ∧
    fastest.params.speedHi.toNat * 256 + fastest.params.speedLo.toNat ≤ 1600 ∧ fastest.params.accel.toNat ≤ 32 := by decide

/-- Speeds 1600 and 64 agree modulo 256. -/
theorem witness_EncMoveCarriesOnlyTheLowSpeedByte :
    fastest.pending = 0x03 ∧ fastest.params.accel.toNat ≤ 32 ∧
    fastest.params.speedHi.toNat * 256 + fastest.params.speedLo.toNat ≤ 1600 ∧
    (0x00#8).toNat * 256 + fastest.params.speedLo.toNat ≤ 1600 := by decide

theorem witness_EncodersBuildTheWireFrames :
    (pendingState 0x01).pending = 0x01 ∧ (pendingState 0x02).pending = 0x02 ∧ fastest.pending = 0x03 ∧
    (coreStep fastest).status.err = .none := by decide

theorem witness_DecPingDecodesTheStatusReply :
    (statusReply 0xFB 0x01 0x3A 0x00).status.busy = false ∧ (pendingState 0x04).pending = 0x04 := by decide

theorem witness_DecMoveackDecodesTheAcknowledgment :
    (statusReply 0xFB 0x01 0xFD 0x01).status.busy = false ∧ (pendingState 0x05).pending = 0x05 := by decide

/-- Q2, Q3 and Q4, with nine or ten bytes received. -/
theorem witness_DecPosRejectsInvalidReplies :
    let short := latchCommand 0x06 (replyState 9 #v[0xFB, 0x01, 0, 0, 0, 0, 0, 0, 0, 0])
    let header := latchCommand 0x06 (replyState 10 #v[0xFA, 0x01, 0, 0, 0, 0, 0, 0, 0, 0])
    let other := latchCommand 0x06 (replyState 10 #v[0xFB, 0x02, 0, 0, 0, 0, 0, 0, 0, 0])
    (short.pending = 0x06 ∧ short.rxLen.toNat < 10) ∧
    (header.pending = 0x06 ∧ 10 ≤ header.rxLen.toNat ∧ header.rxBuf[0] ≠ 0xFB) ∧
    (other.pending = 0x06 ∧ 10 ≤ other.rxLen.toNat ∧ other.rxBuf[0] = 0xFB ∧ other.rxBuf[1] ≠ other.params.devAddr) := by
  decide

/-- X9: the lowest carry. -/
theorem witness_DecPosDecodesThePosition :
    let s := latchCommand 0x06 (positionReply 0 0x80 0x00 0x00 0x00 0x00 0x00)
    (positionReply 0 0x80 0x00 0x00 0x00 0x00 0x00).status.busy = false ∧ s.pending = 0x06 ∧ 10 ≤ s.rxLen.toNat ∧
    s.rxBuf[0] = 0xFB ∧ s.rxBuf[1] = s.params.devAddr := by decide

/-- Every unread byte at the ends of its range. -/
theorem witness_UnreadReplyBytesDoNotMatter :
    ((pendingState 0x04).pending = 0x04 ∧ 1 ≤ (1 : Fin 10).val ∧ 1 ≤ (9 : Fin 10).val) ∧
    ((pendingState 0x05).pending = 0x05 ∧ (1 : Fin 10).val = 1 ∧ (2 : Fin 10).val = 2 ∧ 4 ≤ (4 : Fin 10).val ∧
      4 ≤ (9 : Fin 10).val) ∧
    ((pendingState 0x06).pending = 0x06 ∧ (2 : Fin 10).val = 2 ∧ (9 : Fin 10).val = 9) := by decide

theorem witness_IllegalCommandRaisesIllegalCmd :
    (0x00#8).toNat = 0 ∧ 8 ≤ (0x08#8).toNat ∧ 8 ≤ (0xFF#8).toNat ∧ State.reset.status.busy = false ∧
    (pendingState 0x00).pending.toNat = 0 ∧ 8 ≤ (pendingState 0x08).pending.toNat := by decide

/-- V1: a rejected move, and an illegal code. -/
theorem witness_ErrorsArePrecise :
    (coreStep (latchCommand 0x03 (moveState 0x01 0 0x06 0x41 0x00 0x00 0x00 0x00 0x00))).status.err = .validation ∧
    (coreStep (pendingState 0x00)).status.err = .illegalCmd ∧ ErrCode.validation ≠ .none ∧ ErrCode.illegalCmd ≠ .none := by
  decide

theorem witness_NoResultBesideAnError :
    (coreStep (latchCommand 0x04 (statusReply 0xFB 0x01 0x3A 0x00))).status.ack = true ∧
    (coreStep (pendingState 0x06)).status.err ≠ .none := by decide

theorem witness_CommandsWriteOnlyTheirRegisters :
    (pendingState 0x04).pending ≠ 0x01 ∧ (pendingState 0x04).pending ≠ 0x02 ∧ (pendingState 0x04).pending ≠ 0x03 ∧
    (pendingState 0x01).pending = 0x01 ∧ 4 ≤ 4 ∧ 10 < 11 ∧ (pendingState 0x05).pending ≠ 0x06 ∧
    (pendingState 0x06).pending ≠ 0x07 := by decide

/-- A CSUM_IN write is next, in an idle state. -/
theorem witness_ResultsStayUntilTheNextCommand :
    let s := scheduled [.packet (.host 0x10FFA)] m1
    s.status.busy = false ∧ s.events.head? ≠ some .reset ∧ ∃ t, step s = .next t := ⟨by decide, by decide, _, rfl⟩

/-- Each of the three ways. -/
theorem witness_OnlyCsumInCsumClrAndResetChangeTheAccumulator :
    let s : State := { State.reset with csumAcc := 0x35 }
    (∃ t, step (scheduled [.packet (.host 0x10FFA)] s) = .next t ∧ t.csumAcc ≠ 0x35) ∧
    (∃ t, step (scheduled [.core] (latchCommand 0x07 s)) = .next t ∧ t.csumAcc ≠ 0x35) ∧
    (∃ t, step (scheduled [.reset] s) = .next t ∧ t.csumAcc ≠ 0x35) :=
  ⟨⟨_, rfl, by decide⟩, ⟨_, rfl, by decide⟩, ⟨_, rfl, by decide⟩⟩

/-- A CMD write, a core step, a reset, a core step with an empty schedule, and a read while BUSY = 1. -/
theorem witness_BusyRisesAtCmdWritesAndFallsAtTheCore :
    (∃ t, step (scheduled [.packet (.host 0x10001)] m1) = .next t ∧ t.status.busy = true) ∧
    (∃ t, step (scheduled [.core] (pendingState 0x01)) = .next t ∧ t.status.busy = false) ∧
    (∃ t, step (scheduled [.reset] (pendingState 0x01)) = .next t ∧ t.status.busy = false) ∧
    (∃ t, step (pendingState 0x01) = .next t ∧ t.status.busy = false) ∧
    (∃ t, step (scheduled [.packet (.host 0x00100)] (pendingState 0x01)) = .next t ∧ t.status.busy = true) :=
  ⟨⟨_, rfl, rfl⟩, ⟨_, rfl, rfl⟩, ⟨_, rfl, rfl⟩, ⟨_, rfl, rfl⟩, ⟨_, rfl, rfl⟩⟩

theorem witness_StatusReplyIsLoadedIntoRxBuf : m1.status.busy = false ∧ (pendingState 0x01).status.busy = true := by decide

theorem witness_PositionReplyIsLoadedIntoRxBuf :
    m1.status.busy = false ∧ (pendingState 0x01).status.busy = true := by decide

theorem witness_ReceivedRepliesDecodeToTheirFields :
    (device 0x01).status.busy = false ∧ 0x01#8 = (device 0x01).params.devAddr ∧ 0x02#8 ≠ (device 0x01).params.devAddr := by
  decide

theorem witness_EveryStepKeepsTheRegistersOk : RegistersOk m1 ∧ ∃ t, step (scheduled [.core] m1) = .next t :=
  ⟨⟨.inl rfl, ⟨fun h => absurd rfl h, fun h => absurd h.1 (by decide)⟩, .inl (by decide)⟩, _, rfl⟩

theorem witness_CommandIsItsWriteAndTheCoreStep :
    let s := scheduled [.packet (.host (1#1 ++ 0x00#8 ++ 0x03#8)), .core, .reset] m1
    s.status.busy = false ∧ s.events = [.packet (.host 0x10003), .core, .reset] := by decide

theorem witness_HazardFreeRuns :
    let s := scheduled [.packet (.host 0x10001), .packet (.host 0x00100), .core, .packet (.host 0x10301)] State.reset
    hazardFree s.status.busy s.events = true ∧
    hazardFree false [.packet (.host 0x10001), .packet (.host 0x10301), .core] = false := by decide

/-- Only a turn of the core, a sent frame and a reset are ahead while BUSY = 0: the run has ended. With a host word or a
reply ahead, or with BUSY = 1, it has not. -/
theorem witness_RunEndsWithTheLastTransactionAndBusyZero :
    let s := scheduled [.core, .packet (.link [0xFA, 0x01, 0x3A, 0x35]), .reset] m1
    runEnded s = true ∧ (∃ t, step s = .next t) ∧ runEnded (scheduled [.core, .packet (.host 0x00100)] m1) = false ∧
    runEnded (scheduled [.packet (.link [0xFB, 0x01, 0x3A, 0x00])] m1) = false ∧ runEnded (pendingState 0x01) = false :=
  ⟨by decide, ⟨_, rfl⟩, by decide, by decide, by decide⟩

/-- The final state of ENC_PING is where its core step leaves it: a sent frame and a reset come too late. -/
theorem witness_FinalStateIsWhereTheRunEnds :
    let later := [.packet (.link [0xFA, 0x01, 0x3A, 0x35]), .reset]
    let s := scheduled (.packet (.host 0x10001) :: .core :: later) (device 0x01)
    finalState s = some (scheduled later (after 0x01 (device 0x01))) ∧ hazardFree s.status.busy s.events = true ∧
    finalState (scheduled [.packet (.host 0x10001), .packet (.host 0x10001), .core] (device 0x01)) = none := by decide

/-- Two reads while ENC_PING is pending. -/
theorem witness_LatencyDoesNotChangeTheResult :
    let reads : List (Byte × Byte) := [(0x01, 0x00), (0x0C, 0x00)]
    let s := scheduled (reads.map (fun ad => .packet (.host (0#1 ++ ad.1 ++ ad.2))) ++ .core :: []) (pendingState 0x01)
    s.status.busy = true ∧ s.events = [.packet (.host 0x00100), .packet (.host 0x00C00), .core] := by decide

end Sys2Proof.Tests
end

section
/-! A write to CMD and the core's step of a code no command has (10_state.md R20, 60_exceptions.md R108). -/

namespace Sys2Proof.Machine

theorem regAt_zero : regAt 0x00 = .cmd := (regAt_eq_cmd_iff 0x00).mpr rfl

/-- The instruction of a CMD write word is its row's, whatever the code (30_encoding.md R61, R63, R64). -/
theorem decode_cmdWrite (v : Byte) : decode (.host (1#1 ++ 0x00#8 ++ v)) = .ok (writeInstr 0x00 v) :=
  decodeHost_writeWord 0x00 v

/-- While BUSY = 0 a CMD write latches its code (10_state.md R20). -/
theorem memWrite_cmd_idle (v : Byte) {s : State} (h : s.status.busy = false) :
    memWrite 0x00 v s = .next (latchCommand v s) := by
  rw [memWrite_idle _ _ _ h, regAt_zero]
  rfl

/-- While BUSY = 1 a CMD write is a hazard violation (70_reset_and_hazards.md R123). -/
theorem memWrite_cmd_busy (v : Byte) {s : State} (h : s.status.busy = true) :
    memWrite 0x00 v s = .fault .cmdWriteWhileBusy := by
  rw [memWrite_busy _ _ _ h, if_pos regAt_zero]

theorem readByte_cmd (s : State) : readByte 0x00 s = 0x00 := by
  rw [readByte, regAt_zero]
  rfl

/-- The core step of a code no command has raises ILLEGAL_CMD between its opening and closing steps
(60_exceptions.md R108). -/
theorem coreStep_illegal {s : State} (h : commandOf s.pending = .illegal) :
    coreStep s = closeCommand (raiseErr .illegalCmd (openCommand s)) := by
  rw [coreStep_of h]
  rfl

/-- The codes of 30_encoding.md R64 are those no command has. -/
theorem commandOf_eq_illegal_iff (c : Byte) : commandOf c = .illegal ↔ c.toNat = 0 ∨ 8 ≤ c.toNat := by
  obtain ⟨_, _, _, _, _, _, _, hillegal⟩ := commandOf_code c
  exact hillegal

end Sys2Proof.Machine

namespace Sys2Proof.Proofs

open Machine

/-- Settles O15: a CMD write word's instruction is the word's MemWrite, which latches while BUSY = 0 and faults while
BUSY = 1; the core step of a code no command has raises ILLEGAL_CMD. -/
theorem cmdWriteOnlyLatches : Obligations.CmdWriteOnlyLatches := by
  intro v
  refine ⟨writeInstr 0x00 v, decode_cmdWrite v, fun s hidle => ?_, fun s hpending hcode => ?_, fun s hbusy => ?_,
    readByte_cmd⟩
  · rw [exec_writeInstr, memWrite_cmd_idle v hidle]
    rfl
  · rw [← hpending, ← commandOf_eq_illegal_iff] at hcode
    rw [coreStep_illegal hcode]
    simp
  · rw [exec_writeInstr, memWrite_cmd_busy v hbusy]

end Sys2Proof.Proofs
end

section
/-! A host write at each kind of address (20_memory.md R46): what a store to an RW register is read back as, what it
leaves alone, and which writes are idempotent. -/

namespace Sys2Proof.Machine

theorem exec_wr (a v : Byte) (s : State) : exec (.wr a v) s = memWrite a v s := rfl

theorem regAt_csumIn : regAt 0x0F = .csumIn := (regAt_eq_csumIn_iff 0x0F).mpr rfl

/-! ### Stores to RW registers -/

/-- The bits of an RW register that hold what is written; the reserved ones of CONFIG, DIR and RX_LEN read 0
(10_state.md R21, R23, R30). -/
def storedBits : Reg → Byte
  | .config | .dir => 0x01
  | .rxLen => 0x0F
  | _ => 0xFF

theorem storedBits_regAt (a : Byte) :
    storedBits (regAt a) = if a = 0x02 ∨ a = 0x04 then 0x01 else if a = 0x0D then 0x0F else 0xFF := by
  revert a
  decide

theorem setWidth_one_setWidth_eight (v : Byte) : (v.setWidth 1).setWidth 8 = v &&& 0x01 := by
  revert v
  decide

theorem setWidth_four_setWidth_eight (v : Byte) : (v.setWidth 4).setWidth 8 = v &&& 0x0F := by
  revert v
  decide

/-- An RW register is read back as stored, without its reserved bits (20_memory.md R46). -/
theorem readReg_storeReg_same {r : Reg} (v : Byte) (s : State) (h : accessOf r = .rw) :
    readReg r (storeReg r v s) = v &&& storedBits r := by
  cases r with
  | config | dir => exact setWidth_one_setWidth_eight v
  | rxLen => exact setWidth_four_setWidth_eight v
  | devAddr | accel | speedHi | speedLo | pulses3 | pulses2 | pulses1 | pulses0 => exact BitVec.and_allOnes.symm
  | rxBuf i => exact (Vector.getElem_set_self i.isLt).trans BitVec.and_allOnes.symm
  | cmd | csumIn | status | txLen | csumAcc | txBuf | posCarry | posValue | posResult | reserved => cases h

/-- A store to one byte of RX_BUF leaves every other register as it was. -/
theorem readReg_storeReg_rxBuf_of_ne {q : Reg} {i : Fin 10} (v : Byte) (s : State) (hne : q ≠ .rxBuf i) :
    readReg q (storeReg (.rxBuf i) v s) = readReg q s := by
  cases q with
  | rxBuf j =>
    have hval : i.val ≠ j.val := fun hij => hne (congrArg Reg.rxBuf (Fin.ext hij.symm))
    exact Vector.getElem_set_ne i.isLt j.isLt hval
  | _ => rfl

/-- A store to an RW register leaves every other register as it was (20_memory.md R46): outside RX_BUF each register
reads a part of the state of its own, so the read does not see the store, or the two registers are the same. -/
theorem readReg_storeReg_of_ne {q r : Reg} (v : Byte) (s : State) (h : accessOf r = .rw) (hne : q ≠ r) :
    readReg q (storeReg r v s) = readReg q s := by
  cases r with
  | rxBuf i => exact readReg_storeReg_rxBuf_of_ne v s hne
  | config | devAddr | dir | accel | speedHi | speedLo | pulses3 | pulses2 | pulses1 | pulses0 | rxLen =>
    cases q <;> trivial
  | cmd | csumIn | status | txLen | csumAcc | txBuf | posCarry | posValue | posResult | reserved => cases h

/-- Storing a value in an RW register a second time changes nothing more (20_memory.md R46). -/
theorem storeReg_idempotent {r : Reg} (v : Byte) (s : State) (h : accessOf r = .rw) :
    storeReg r v (storeReg r v s) = storeReg r v s := by
  cases r with
  | rxBuf i => simp [storeReg]
  | config | devAddr | dir | accel | speedHi | speedLo | pulses3 | pulses2 | pulses1 | pulses0 | rxLen => rfl
  | cmd | csumIn | status | txLen | csumAcc | txBuf | posCarry | posValue | posResult | reserved => cases h

/-- An RW register is none of the others, CMD, CSUM_IN and the reserved addresses among them. -/
theorem ne_of_rw {q r : Reg} (hr : accessOf r = .rw) (hq : accessOf q ≠ .rw) : r ≠ q := by
  rintro rfl
  exact hq hr

/-- Storing to an RW address leaves the byte at every other address as it was. -/
theorem readByte_storeReg_of_ne {a b : Byte} (v : Byte) (s : State) (h : accessOf (regAt a) = .rw) (hne : b ≠ a) :
    readByte b (storeReg (regAt a) v s) = readByte b s :=
  readReg_storeReg_of_ne v s h fun hreg => hne (regAt_injective a b hreg.symm (ne_of_rw h (by decide))).symm

/-! ### Writes to CSUM_IN -/

theorem memWrite_csumIn_idle (v : Byte) {s : State} (h : s.status.busy = false) :
    memWrite 0x0F v s = .next (addToChecksum v s) := by
  rw [memWrite_idle _ _ _ h, regAt_csumIn]
  rfl

/-- Adding a nonzero byte is seen in CSUM_ACC, so a CSUM_IN write is not idempotent (20_memory.md R46). -/
theorem addToChecksum_ne_self {v : Byte} (s : State) (hv : v ≠ 0) : addToChecksum v s ≠ s := by
  intro h
  have hacc : s.csumAcc + v = s.csumAcc := congrArg State.csumAcc h
  exact hv (add_eq_left.mp hacc)

end Sys2Proof.Machine

namespace Sys2Proof.Proofs

open Machine

/-- Settles O16: while BUSY = 0 a write is the store to the register at its address, which is a latch at CMD, an
addition at CSUM_IN, an idempotent store at an RW register and nothing elsewhere; while BUSY = 1 it faults. -/
theorem wrWritesOnlyItsRegister : Obligations.WrWritesOnlyItsRegister := by
  refine ⟨fun s a v hidle => ?_, fun s a v hbusy => ?_⟩
  · refine ⟨storeReg (regAt a) v s, memWrite_idle a v s hidle, ?cmd, ?csumIn, fun hrw => ?rw, storeReg_ignored _ v s⟩
    case cmd =>
      rintro rfl
      rw [regAt_zero, exec_wr]
      exact ⟨rfl, memWrite_cmd_busy v rfl⟩
    case csumIn =>
      rintro rfl
      rw [regAt_csumIn, exec_wr]
      refine ⟨?_, fun hv hsame => ?_⟩
      · simp [storeReg, addToChecksum, BitVec.ofNat_add]
      · have hidle' : (storeReg .csumIn v s).status.busy = false := hidle
        rw [memWrite_csumIn_idle v hidle'] at hsame
        exact addToChecksum_ne_self _ hv (Host.Outcome.next.inj hsame)
    case rw =>
      have hstatus : (storeReg (regAt a) v s).status = s.status := by
        rw [storeReg_status, if_neg (ne_of_rw hrw (by decide))]
      refine ⟨?_, fun b hne => readByte_storeReg_of_ne v s hrw hne, hstatus, storeReg_txLen _ v s, storeReg_txBuf _ v s,
        ?_, storeReg_pos _ v s, ?_, storeReg_rdata _ v s, storeReg_draws _ v s, storeReg_events _ v s, ?_⟩
      · rw [← storedBits_regAt]
        exact readReg_storeReg_same v s hrw
      · rw [storeReg_csumAcc, if_neg (ne_of_rw hrw (by decide))]
      · rw [storeReg_pending, if_neg (ne_of_rw hrw (by decide))]
      · rw [exec_wr, memWrite_idle a v _ (hstatus ▸ hidle), storeReg_idempotent v s hrw]
  · rw [exec_wr, memWrite_busy a v s hbusy]
    split <;> exact ⟨_, rfl⟩

end Sys2Proof.Proofs
end

section
/-! A write word's instruction: it is well-formed and encodes back to the word (30_encoding.md R59, R61). -/

namespace Sys2Proof

/-- Whatever row a write word matches, its instruction is one that the table's rows give (30_encoding.md R61). -/
theorem writeInstr_wf (a d : Byte) : (writeInstr a d).wf = true := by
  unfold writeInstr
  by_cases ha : a = 0x00
  · rw [if_pos ha]
    cases hc : commandOf d with
    | illegal => simp [Instr.wf, (commandOf_illegal_iff d).mp hc]
    | encPing | encGetpos | encMove | decPing | decMoveack | decPos | csumClr => rfl
  · rw [if_neg ha]
    by_cases hf : a = 0x0F
    · rw [if_pos hf]; rfl
    · rw [if_neg hf]; simpa [Instr.wf] using And.intro ha hf

/-- Whatever row a write word matches, its instruction encodes back to the word (30_encoding.md R59, R63). -/
theorem encode_writeInstr (a d : Byte) : encode (writeInstr a d) = .host (writeWord a d) := by
  unfold writeInstr
  by_cases ha : a = 0x00
  · rw [if_pos ha, ha]
    obtain ⟨k1, k2, k3, k4, k5, k6, k7, _⟩ := Machine.commandOf_code d
    cases hc : commandOf d with
    | encPing => rw [k1.mp hc]; rfl
    | encGetpos => rw [k2.mp hc]; rfl
    | encMove => rw [k3.mp hc]; rfl
    | decPing => rw [k4.mp hc]; rfl
    | decMoveack => rw [k5.mp hc]; rfl
    | decPos => rw [k6.mp hc]; rfl
    | csumClr => rw [k7.mp hc]; rfl
    | illegal => rfl
  · rw [if_neg ha]
    by_cases hf : a = 0x0F
    · rw [if_pos hf, hf]; rfl
    · rw [if_neg hf]; rfl

/-- Every host word decodes to a well-formed instruction that encodes back to it: it is a write word or a read word of
its own fields. -/
theorem decodeHost_total (w : BitVec 17) : ∃ i, decodeHost w = .ok i ∧ i.wf = true ∧ encode i = .host w := by
  rcases word_cases w with hw | hw <;> rw [hw]
  · exact ⟨_, decodeHost_writeWord _ _, writeInstr_wf _ _, encode_writeInstr _ _⟩
  · exact ⟨_, decodeHost_readWord _ _, rfl, rfl⟩

end Sys2Proof

namespace Sys2Proof.Proofs

open Machine

/-- Settles O2: every host word is a write word or a read word, a write word performs its MemWrite whatever row it
matches, and a read word is RD. -/
theorem everyHostWordIsOneTransaction : Obligations.EveryHostWordIsOneTransaction :=
  ⟨decodeHost_total, fun a d => ⟨writeInstr a d, decodeHost_writeWord a d, exec_writeInstr a d⟩,
    fun a d => ⟨.rd a d, decodeHost_readWord a d, fun _ => rfl⟩⟩

end Sys2Proof.Proofs
end

section
/-! The decode commands when a byte of RX_BUF they do not read is changed (30_encoding.md R73). The change is written as
the store to that byte, `storeReg (.rxBuf i) v`. -/

namespace Sys2Proof.Machine

variable {i : Fin 10} {v : Byte} {s : State}

/-- Storing one byte of RX_BUF leaves the others as they were. -/
theorem storeReg_rxBuf_getElem_of_ne {j : Nat} (hj : j < 10) (hne : i.val ≠ j) :
    (storeReg (.rxBuf i) v s).rxBuf[j] = s.rxBuf[j] :=
  Vector.getElem_set_ne i.isLt hj hne

/-! ### What the checks and the position read -/

/-- The checks of every decode command read byte 0 only. -/
theorem replyError_storeReg_rxBuf (n : Nat) (h0 : i.val ≠ 0) :
    replyError n (storeReg (.rxBuf i) v s) = replyError n s := by
  unfold replyError
  rw [storeReg_rxBuf_getElem_of_ne _ h0]
  rfl

/-- DEC_POS's checks read bytes 0 and 1 only. -/
theorem positionError_storeReg_rxBuf (h0 : i.val ≠ 0) (h1 : i.val ≠ 1) :
    positionError (storeReg (.rxBuf i) v s) = positionError s := by
  unfold positionError
  rw [replyError_storeReg_rxBuf 10 h0, storeReg_rxBuf_getElem_of_ne _ h1]
  rfl

/-- The carry is bytes 3 to 6. -/
theorem carryBits_storeReg_rxBuf (h : i.val < 3 ∨ 6 < i.val) :
    carryBits (storeReg (.rxBuf i) v s).rxBuf = carryBits s.rxBuf := by
  unfold carryBits
  rw [storeReg_rxBuf_getElem_of_ne (j := 3) _ (by omega), storeReg_rxBuf_getElem_of_ne (j := 4) _ (by omega),
    storeReg_rxBuf_getElem_of_ne (j := 5) _ (by omega), storeReg_rxBuf_getElem_of_ne (j := 6) _ (by omega)]

/-- The value is bytes 7 and 8. -/
theorem valueBits_storeReg_rxBuf (h : i.val < 7 ∨ 8 < i.val) :
    valueBits (storeReg (.rxBuf i) v s).rxBuf = valueBits s.rxBuf := by
  unfold valueBits
  rw [storeReg_rxBuf_getElem_of_ne (j := 7) _ (by omega), storeReg_rxBuf_getElem_of_ne (j := 8) _ (by omega)]

/-- The position groups are decoded from bytes 3 to 8. -/
theorem decodedPosition_storeReg_rxBuf (fmt : BitVec 1) (h : i.val < 3 ∨ 8 < i.val) :
    decodedPosition fmt (storeReg (.rxBuf i) v s).rxBuf = decodedPosition fmt s.rxBuf := by
  unfold decodedPosition
  rw [carryBits_storeReg_rxBuf (by omega), valueBits_storeReg_rxBuf (by omega)]

/-! ### The bodies and the core step -/

/-- No command writes RX_BUF (10_state.md R31, R40). -/
theorem commandBody_rxBuf (c : Command) (s : State) : (commandBody c s).rxBuf = s.rxBuf := by
  rcases commandBody_cases c s with ⟨f, hb, _⟩ | ⟨hb, _⟩ | ⟨b, hb, _⟩ | ⟨hb, _⟩ | ⟨hb, _⟩ | ⟨e, _, hb, _⟩ <;>
    rw [hb] <;> rfl

theorem coreStep_rxBuf (s : State) : (coreStep s).rxBuf = s.rxBuf := by
  rw [coreStep, closeCommand_rxBuf, commandBody_rxBuf, openCommand_rxBuf]

theorem bodyDecPing_storeReg_rxBuf (h0 : i.val ≠ 0) :
    bodyDecPing (storeReg (.rxBuf i) v s) = storeReg (.rxBuf i) v (bodyDecPing s) := by
  unfold bodyDecPing
  rw [replyError_storeReg_rxBuf 4 h0]
  cases replyError 4 s <;> rfl

theorem bodyDecMoveack_storeReg_rxBuf (h0 : i.val ≠ 0) (h3 : i.val ≠ 3) :
    bodyDecMoveack (storeReg (.rxBuf i) v s) = storeReg (.rxBuf i) v (bodyDecMoveack s) := by
  unfold bodyDecMoveack
  rw [replyError_storeReg_rxBuf 4 h0, storeReg_rxBuf_getElem_of_ne _ h3]
  cases replyError 4 s <;> rfl

theorem bodyDecPos_storeReg_rxBuf (h : i.val = 2 ∨ i.val = 9) :
    bodyDecPos (storeReg (.rxBuf i) v s) = storeReg (.rxBuf i) v (bodyDecPos s) := by
  unfold bodyDecPos
  rw [positionError_storeReg_rxBuf (by omega) (by omega), decodedPosition_storeReg_rxBuf _ (by omega)]
  cases positionError s <;> rfl

/-- Where the pending command's body does not read the byte, neither does the core step: the opening and closing steps
write STATUS only (10_state.md R38). -/
theorem coreStep_storeReg_rxBuf {c : Command} (hc : commandOf s.pending = c)
    (hbody : commandBody c (storeReg (.rxBuf i) v (openCommand s)) =
      storeReg (.rxBuf i) v (commandBody c (openCommand s))) :
    coreStep (storeReg (.rxBuf i) v s) = storeReg (.rxBuf i) v (coreStep s) := by
  have hc' : commandOf (storeReg (.rxBuf i) v s).pending = c := hc
  calc coreStep (storeReg (.rxBuf i) v s)
      = closeCommand (commandBody c (storeReg (.rxBuf i) v (openCommand s))) := coreStep_of hc'
    _ = storeReg (.rxBuf i) v (closeCommand (commandBody c (openCommand s))) := by rw [hbody]; rfl
    _ = storeReg (.rxBuf i) v (coreStep s) := by rw [coreStep_of hc]

end Sys2Proof.Machine

namespace Sys2Proof.Proofs

open Machine

/-- Settles O38: each decode command's body commutes with a store to a byte it does not read, so the core step does. -/
theorem unreadReplyBytesDoNotMatter : Obligations.UnreadReplyBytesDoNotMatter := by
  intro s i v hunread
  have hcommutes : coreStep (storeReg (.rxBuf i) v s) = storeReg (.rxBuf i) v (coreStep s) := by
    obtain ⟨_, _, _, k4, k5, k6, _⟩ := commandOf_code s.pending
    rcases hunread with ⟨hp, hi⟩ | ⟨hp, hi⟩ | ⟨hp, hi⟩
    · exact coreStep_storeReg_rxBuf (k4.mpr hp) (bodyDecPing_storeReg_rxBuf (by omega))
    · exact coreStep_storeReg_rxBuf (k5.mpr hp) (bodyDecMoveack_storeReg_rxBuf (by omega) (by omega))
    · exact coreStep_storeReg_rxBuf (k6.mpr hp) (bodyDecPos_storeReg_rxBuf hi)
  simpa only [storeReg, coreStep_rxBuf] using hcommutes

end Sys2Proof.Proofs
end

section
/-! The checksum family: the checksum of a byte sequence, CSUM_CLR and CSUM_IN (40_checksum.md R79 to R81). -/

namespace Sys2Proof.Machine

/-! ### The checksum of a sequence -/

theorem checksum_toNat (bs : List Byte) : (checksum bs).toNat = (bs.map BitVec.toNat).sum % 256 :=
  BitVec.toNat_ofNat _ 8

/-- The checksum does not depend on the order of the bytes: neither does the sum of their values. -/
theorem checksum_eq_of_perm {as bs : List Byte} (h : as.Perm bs) : checksum as = checksum bs := by
  have hsum : (as.map BitVec.toNat).sum = (bs.map BitVec.toNat).sum := (h.map BitVec.toNat).sum_eq
  rw [checksum, checksum, hsum]

/-! ### CSUM_CLR and CSUM_IN -/

/-- The core step of CSUM_CLR clears CSUM_ACC between its opening and closing steps (40_checksum.md R80). -/
theorem coreStep_csumClr {s : State} (h : s.pending = 0x07) :
    coreStep s = closeCommand (clearChecksum (openCommand s)) := by
  have hc : commandOf s.pending = .csumClr := by rw [h]; rfl
  rw [coreStep_of hc]
  rfl

/-- The accumulator after a CSUM_IN write, by the values of the bytes (40_checksum.md R81). -/
theorem addToChecksum_eq (v : Byte) (s : State) :
    addToChecksum v s = { s with csumAcc := BitVec.ofNat 8 (s.csumAcc.toNat + v.toNat) } := by
  simp [addToChecksum, BitVec.ofNat_add]

/-- While BUSY = 1 a CSUM_IN write is a hazard violation (70_reset_and_hazards.md R124). -/
theorem memWrite_csumIn_busy (v : Byte) {s : State} (h : s.status.busy = true) :
    memWrite 0x0F v s = .fault .writeWhileBusy := by
  rw [memWrite_busy _ _ _ h, regAt_csumIn]
  rfl

end Sys2Proof.Machine

namespace Sys2Proof.Proofs

open Machine

/-- Settles O24: a write of `v` to 0x0F is CSUM_IN `v`, whose MemWrite adds `v` to CSUM_ACC while BUSY = 0 and faults
while BUSY = 1. -/
theorem csumInAddsOneByte : Obligations.CsumInAddsOneByte := by
  intro v
  refine ⟨decodeHost_writeWord 0x0F v, fun s hidle => ?_, fun s hbusy => memWrite_csumIn_busy v hbusy⟩
  calc exec (.csumIn v) s
      = .next (addToChecksum v s) := memWrite_csumIn_idle v hidle
    _ = .next { s with csumAcc := BitVec.ofNat 8 (s.csumAcc.toNat + v.toNat) } := by rw [addToChecksum_eq]

/-- Settles O21: the checksum is the byte of the sum of the values, which no permutation changes. -/
theorem checksumIsTheSumModulo256 : Obligations.ChecksumIsTheSumModulo256 :=
  ⟨checksum_toNat, checksum_nil, fun _ _ => checksum_eq_of_perm⟩

/-- Settles O23: the CMD write of 0x07 latches it, and its core step clears CSUM_ACC and the flags. -/
theorem csumClrClearsTheAccumulator : Obligations.CsumClrClearsTheAccumulator := by
  refine ⟨decode_cmdWrite 0x07, fun s hidle => memWrite_cmd_idle 0x07 hidle, fun s hpending => ?_⟩
  rw [coreStep_csumClr hpending]
  rfl

end Sys2Proof.Proofs
end

section
/-! The encoder family: the frames ENC_PING, ENC_GETPOS and ENC_MOVE leave in TX_BUF, and the parameters ENC_MOVE rejects
(41_encoder.md R84 to R87). -/

namespace Sys2Proof.Machine

/-! ### A frame written over a buffer -/

theorem overlay_nil {n : Nat} (old : Vector Byte n) : overlay old [] = old := by
  ext i hi
  simp

/-- The last byte of a frame goes to the index after the bytes before it. -/
theorem overlay_concat {n : Nat} (old : Vector Byte n) (bs : List Byte) (b : Byte) (h : bs.length < n) :
    overlay old (bs ++ [b]) = (overlay old bs).set bs.length b := by
  ext i hi
  rw [overlay_getElem, Vector.getElem_set, overlay_getElem]
  rcases Nat.lt_trichotomy i bs.length with hlt | heq | hgt
  · simp [List.getD, List.getElem?_append_left hlt, Nat.ne_of_gt hlt]
  · simp [heq]
  · simp [List.getD, List.getElem?_append_right hgt.le, hgt.le, Nat.ne_of_lt hgt, Nat.sub_ne_zero_of_lt hgt]

/-- A four-byte frame, byte by byte; the buffer above it keeps its values (10_state.md R29). -/
theorem overlay_four (old : Vector Byte 11) (b0 b1 b2 b3 : Byte) :
    overlay old [b0, b1, b2, b3] = (((old.set 0 b0).set 1 b1).set 2 b2).set 3 b3 := by
  have h3 : overlay old [b0, b1, b2, b3] = (overlay old [b0, b1, b2]).set 3 b3 :=
    overlay_concat old [b0, b1, b2] b3 (by simp)
  have h2 : overlay old [b0, b1, b2] = (overlay old [b0, b1]).set 2 b2 := overlay_concat old [b0, b1] b2 (by simp)
  have h1 : overlay old [b0, b1] = (overlay old [b0]).set 1 b1 := overlay_concat old [b0] b1 (by simp)
  have h0 : overlay old [b0] = (overlay old []).set 0 b0 := overlay_concat old [] b0 (by simp)
  rw [h3, h2, h1, h0, overlay_nil]

/-- A frame as long as the buffer leaves nothing of what the buffer held. -/
theorem overlay_full {n : Nat} (old : Vector Byte n) (bs : List Byte) (h : bs.length = n) :
    overlay old bs = ⟨bs.toArray, h⟩ := by
  ext i hi
  simp [h, hi]

/-! ### The frames -/

/-- The checksum of a frame's HEADER, address and opcode by their values (40_checksum.md R79). -/
theorem checksum_three (h a o : Byte) : checksum [h, a, o] = BitVec.ofNat 8 (h.toNat + o.toNat + a.toNat) := by
  apply congrArg (BitVec.ofNat 8)
  simp only [List.map_cons, List.map_nil, List.sum_cons, List.sum_nil]
  omega

/-- The move frame of the parameter registers: its packed bytes as bit fields, the pulses byte by byte
(30_encoding.md R68, R69). -/
theorem moveFrame_params (p : Params) :
    moveFrame p.devAddr p.dir (speedOf p) p.accel (pulsesOf p) =
      withChecksum [0xFA, p.devAddr, 0xFD, p.dir ++ 0#3 ++ (speedOf p).extractLsb' 4 4,
        0#4 ++ (speedOf p).extractLsb' 0 4, p.accel, p.pulses3, p.pulses2, p.pulses1, p.pulses0] := by
  rw [moveFrame_bits, pulsesOf, byteAt_be32_three, byteAt_be32_two, byteAt_be32_one, byteAt_be32_zero]

/-! ### The core step of an encode command -/

/-- A frame between the opening and the closing step: TX_BUF and TX_LEN are the frame's, the flags and BUSY are
cleared, and nothing else changes (10_state.md R38, R40). -/
theorem closeCommand_putFrame_openCommand (f : List Byte) (s : State) :
    closeCommand (putFrame f (openCommand s)) =
      { s with
        txBuf := overlay s.txBuf f
        txLen := BitVec.ofNat 4 f.length
        status := { busy := false, posValid := false, ack := false, err := .none } } := rfl

theorem coreStep_encPing {s : State} (h : s.pending = 0x01) :
    coreStep s = closeCommand (putFrame (pingFrame s.params.devAddr) (openCommand s)) := by
  obtain ⟨code, _⟩ := commandOf_code s.pending
  rw [coreStep_of (code.mpr h)]
  rfl

theorem coreStep_encGetpos {s : State} (h : s.pending = 0x02) :
    coreStep s = closeCommand (putFrame (getposFrame s.params.devAddr) (openCommand s)) := by
  obtain ⟨_, code, _⟩ := commandOf_code s.pending
  rw [coreStep_of (code.mpr h)]
  rfl

theorem coreStep_encMove {s : State} (h : s.pending = 0x03) :
    coreStep s = closeCommand (bodyEncMove (openCommand s)) := by
  obtain ⟨_, _, code, _⟩ := commandOf_code s.pending
  rw [coreStep_of (code.mpr h)]
  rfl

/-- ENC_MOVE with a parameter out of range raises VALIDATION and drops the frame (41_encoder.md R86). -/
theorem coreStep_encMove_rejected {s : State} (h : s.pending = 0x03) (hp : moveRejected s.params = true) :
    coreStep s = closeCommand (raiseErr .validation (dropFrame (openCommand s))) := by
  rw [coreStep_encMove h, bodyEncMove, openCommand_params, if_pos hp]

/-- ENC_MOVE with its parameters in range builds the move frame (41_encoder.md R87). -/
theorem coreStep_encMove_accepted {s : State} (h : s.pending = 0x03) (hp : moveRejected s.params = false) :
    coreStep s =
      closeCommand (putFrame
        (moveFrame s.params.devAddr s.params.dir (speedOf s.params) s.params.accel (pulsesOf s.params))
        (openCommand s)) := by
  rw [coreStep_encMove h, bodyEncMove, openCommand_params, if_neg (by simp [hp])]

end Sys2Proof.Machine

namespace Sys2Proof.Proofs

open Machine

/-- Settles O26: the CMD write of 0x01 latches it, and its core step writes the four bytes of the ping frame. -/
theorem encPingBuildsThePingFrame : Obligations.EncPingBuildsThePingFrame := by
  refine ⟨decode_cmdWrite 0x01, fun s hidle => memWrite_cmd_idle 0x01 hidle, fun a => checksum_three 0xFA a 0x3A,
    fun s hpending => ?_⟩
  rw [coreStep_encPing hpending, closeCommand_putFrame_openCommand, ← overlay_four]
  rfl

/-- Settles O27: the CMD write of 0x02 latches it, and its core step writes the four bytes of the get-position frame. -/
theorem encGetposBuildsTheGetPositionFrame : Obligations.EncGetposBuildsTheGetPositionFrame := by
  refine ⟨decode_cmdWrite 0x02, fun s hidle => memWrite_cmd_idle 0x02 hidle, fun a => checksum_three 0xFA a 0x30,
    fun s hpending => ?_⟩
  rw [coreStep_encGetpos hpending, closeCommand_putFrame_openCommand, ← overlay_four]
  rfl

/-- Settles O28: the range check decides between the raise of VALIDATION, with TX_LEN cleared, and a frame, which leaves
ERR as the opening step set it. -/
theorem encMoveRejectsParametersOutOfRange : Obligations.EncMoveRejectsParametersOutOfRange := by
  refine fun s hpending => ⟨fun hout => ?_, fun hspeed haccel => ?_⟩
  · rw [coreStep_encMove_rejected hpending ((moveRejected_iff s.params).mpr hout)]
    rfl
  · rw [coreStep_encMove_accepted hpending ((moveRejected_false_iff s.params).mpr ⟨hspeed, haccel⟩)]
    rfl

/-- Settles O29: the CMD write of 0x03 latches it, and its core step overwrites all of TX_BUF with the eleven bytes of the
move frame. -/
theorem encMoveBuildsTheMoveFrame : Obligations.EncMoveBuildsTheMoveFrame := by
  refine ⟨decode_cmdWrite 0x03, fun s hidle => memWrite_cmd_idle 0x03 hidle, fun s hpending hspeed haccel => ?_⟩
  rw [coreStep_encMove_accepted hpending ((moveRejected_false_iff s.params).mpr ⟨hspeed, haccel⟩),
    closeCommand_putFrame_openCommand, moveFrame_params, overlay_full s.txBuf _ rfl]
  rfl

end Sys2Proof.Proofs
end

section
/-! The decoder family: what DEC_PING and DEC_MOVEACK make of a status reply, and the replies DEC_POS rejects
(42_decoder.md R91 to R93). -/

namespace Sys2Proof.Machine

/-! ### The core step of a decode command -/

/-- A raise between the opening and the closing step: ERR is the error's, the flags and BUSY are cleared, and nothing
else changes (10_state.md R38, 60_exceptions.md R107). -/
theorem closeCommand_raiseErr_openCommand (e : ErrCode) (s : State) :
    closeCommand (raiseErr e (openCommand s)) =
      { s with status := { busy := false, posValid := false, ack := false, err := e } } := rfl

/-- ACK written between the opening and the closing step: ERR is NONE, POS_VALID and BUSY are cleared, and nothing else
changes (10_state.md R38, R40). -/
theorem closeCommand_setAck_openCommand (b : Bool) (s : State) :
    closeCommand (setAck b (openCommand s)) =
      { s with status := { busy := false, posValid := false, ack := b, err := .none } } := rfl

theorem coreStep_decPing {s : State} (h : s.pending = 0x04) :
    coreStep s = closeCommand (bodyDecPing (openCommand s)) := by
  obtain ⟨_, _, _, code, _⟩ := commandOf_code s.pending
  rw [coreStep_of (code.mpr h)]
  rfl

theorem coreStep_decMoveack {s : State} (h : s.pending = 0x05) :
    coreStep s = closeCommand (bodyDecMoveack (openCommand s)) := by
  obtain ⟨_, _, _, _, code, _⟩ := commandOf_code s.pending
  rw [coreStep_of (code.mpr h)]
  rfl

theorem coreStep_decPos {s : State} (h : s.pending = 0x06) :
    coreStep s = closeCommand (bodyDecPos (openCommand s)) := by
  obtain ⟨_, _, _, _, _, code, _⟩ := commandOf_code s.pending
  rw [coreStep_of (code.mpr h)]
  rfl

/-! ### Status replies -/

/-- What DEC_PING and DEC_MOVEACK share: the raise of the first check that fails, or `b` in ACK (42_decoder.md R91,
R92). -/
def bodyStatusReply (b : Bool) (s : State) : State :=
  match replyError 4 s with
  | some e => raiseErr e s
  | none => setAck b s

theorem bodyDecPing_eq_bodyStatusReply (s : State) : bodyDecPing s = bodyStatusReply true s := rfl

theorem bodyDecMoveack_eq_bodyStatusReply (s : State) :
    bodyDecMoveack s = bodyStatusReply (s.rxBuf[3] == 0x01) s := rfl

theorem bodyStatusReply_error {b : Bool} {s : State} {e : ErrCode} (h : replyError 4 s = some e) :
    bodyStatusReply b s = raiseErr e s := by
  rw [bodyStatusReply, h]

theorem bodyStatusReply_ok {b : Bool} {s : State} (h : replyError 4 s = none) : bodyStatusReply b s = setAck b s := by
  rw [bodyStatusReply, h]

/-- The flags a status reply leaves, by its checks in their order (42_decoder.md R91, R92, 60_exceptions.md R109). -/
theorem closeCommand_bodyStatusReply_openCommand (b : Bool) (s : State) :
    closeCommand (bodyStatusReply b (openCommand s)) =
      { s with
        status :=
          if s.rxLen.toNat < 4 then { busy := false, posValid := false, ack := false, err := .shortRead }
          else if s.rxBuf[0] ≠ 0xFB then { busy := false, posValid := false, ack := false, err := .malformed }
          else { busy := false, posValid := false, ack := b, err := .none } } := by
  rcases replyError_cases 4 s with ⟨hshort, hcheck⟩ | ⟨hlen, hheader, hcheck⟩ | ⟨hlen, hheader, hcheck⟩ <;>
    rw [← replyError_open] at hcheck
  · rw [bodyStatusReply_error hcheck, closeCommand_raiseErr_openCommand, if_pos hshort]
  · rw [bodyStatusReply_error hcheck, closeCommand_raiseErr_openCommand, if_neg hlen.not_gt, if_pos hheader]
  · rw [bodyStatusReply_ok hcheck, closeCommand_setAck_openCommand, if_neg hlen.not_gt, if_neg (not_not_intro hheader)]

/-! ### Position replies -/

theorem positionError_short {s : State} (h : s.rxLen.toNat < 10) : positionError s = some .shortRead := by
  rw [positionError, replyError_short h]

theorem positionError_header {s : State} (h : 10 ≤ s.rxLen.toNat) (hh : s.rxBuf[0] ≠ 0xFB) :
    positionError s = some .malformed := by
  rw [positionError, replyError_header h hh]

theorem positionError_address {s : State} (h : 10 ≤ s.rxLen.toNat) (hh : s.rxBuf[0] = 0xFB)
    (ha : s.rxBuf[1] ≠ s.params.devAddr) : positionError s = some .protoMismatch := by
  rw [positionError, replyError_ok h hh]
  exact if_pos ha

/-- DEC_POS on a reply that fails a check: its error in ERR, and nothing but STATUS changes (42_decoder.md R93). -/
theorem coreStep_decPos_rejected {s : State} {e : ErrCode} (h : s.pending = 0x06) (he : positionError s = some e) :
    coreStep s = { s with status := { busy := false, posValid := false, ack := false, err := e } } := by
  rw [← positionError_open] at he
  rw [coreStep_decPos h, bodyDecPos, he, ← closeCommand_raiseErr_openCommand]

end Sys2Proof.Machine

namespace Sys2Proof.Proofs

open Machine

/-- Settles O32: the CMD write of 0x04 latches it, and its core step is a status reply's with 1 for ACK. -/
theorem decPingDecodesTheStatusReply : Obligations.DecPingDecodesTheStatusReply := by
  refine ⟨decode_cmdWrite 0x04, fun s hidle => memWrite_cmd_idle 0x04 hidle, fun s hpending => ?_⟩
  rw [coreStep_decPing hpending, bodyDecPing_eq_bodyStatusReply, closeCommand_bodyStatusReply_openCommand]

/-- Settles O33: the CMD write of 0x05 latches it, and its core step is a status reply's with the test of byte 3 for
ACK. -/
theorem decMoveackDecodesTheAcknowledgment : Obligations.DecMoveackDecodesTheAcknowledgment := by
  refine ⟨decode_cmdWrite 0x05, fun s hidle => memWrite_cmd_idle 0x05 hidle, fun s hpending => ?_⟩
  rw [coreStep_decMoveack hpending, bodyDecMoveack_eq_bodyStatusReply, closeCommand_bodyStatusReply_openCommand,
    openCommand_rxBuf, beq_eq_decide]

/-- Settles O34: each failed check of DEC_POS is the error that its core step leaves in ERR. -/
theorem decPosRejectsInvalidReplies : Obligations.DecPosRejectsInvalidReplies := fun _ hpending =>
  ⟨fun hshort => coreStep_decPos_rejected hpending (positionError_short hshort),
    fun hlen hheader => coreStep_decPos_rejected hpending (positionError_header hlen hheader),
    fun hlen hheader haddress => coreStep_decPos_rejected hpending (positionError_address hlen hheader haddress)⟩

end Sys2Proof.Proofs
end

section
/-! The errors (60_exceptions.md R107 to R109): the one each command raises, and what a raise leaves. -/

namespace Sys2Proof.Machine

/-! ### The error of a command -/

/-- The error the body of a command raises, if any: the first check that fails (60_exceptions.md R102, R109). -/
def commandError (c : Command) (s : State) : Option ErrCode :=
  match c with
  | .encPing | .encGetpos | .csumClr => none
  | .encMove => if moveRejected s.params then some .validation else none
  | .decPing | .decMoveack => replyError 4 s
  | .decPos => positionError s
  | .illegal => some .illegalCmd

theorem commandError_encMove (s : State) :
    commandError .encMove s = if moveRejected s.params then some .validation else none := rfl

/-- The opening step changes nothing that a check reads. -/
theorem commandError_open (c : Command) (s : State) : commandError c (openCommand s) = commandError c s := rfl

/-- A body raises the command's error, ENC_MOVE after it dropped the frame (41_encoder.md R86), or leaves ERR alone. -/
theorem commandBody_error_cases (c : Command) (s : State) :
    (∃ e, commandError c s = some e ∧
      commandBody c s = raiseErr e (if c = .encMove then dropFrame s else s)) ∨
    (commandError c s = none ∧ (commandBody c s).status.err = s.status.err) := by
  rcases commandBody_cases c s with ⟨f, hb, hc⟩ | ⟨hb, rfl, hp⟩ | ⟨b, hb, hc, hr⟩ | ⟨hb, rfl, hr⟩ | ⟨hb, rfl⟩ |
    ⟨e, _, hb, hc⟩
  · refine .inr ⟨?_, by rw [hb]; rfl⟩
    rcases hc with ⟨-, rfl⟩ | ⟨-, rfl⟩ | ⟨-, rfl, hp⟩
    · rfl
    · rfl
    · rw [commandError_encMove, hp]
      rfl
  · exact .inl ⟨.validation, if_pos hp, hb⟩
  · refine .inr ⟨?_, by rw [hb]; rfl⟩
    rcases hc with rfl | rfl <;> exact hr
  · exact .inr ⟨hr, by rw [hb]; rfl⟩
  · exact .inr ⟨rfl, by rw [hb]; rfl⟩
  · refine .inl ⟨e, ?_⟩
    rcases hc with ⟨rfl, hr⟩ | ⟨rfl, hr⟩ | ⟨rfl, hr⟩ | ⟨rfl, rfl⟩
    exacts [⟨hr, hb⟩, ⟨hr, hb⟩, ⟨hr, hb⟩, ⟨rfl, hb⟩]

/-- The core step leaves the error of the command in PENDING, STATUS otherwise clear and nothing else changed but
ENC_MOVE's TX_LEN (60_exceptions.md R107), or leaves ERR = NONE. -/
theorem coreStep_error_cases (s : State) :
    (∃ e, commandError (commandOf s.pending) s = some e ∧
      coreStep s =
        { s with
          txLen := if s.pending = 0x03 then 0 else s.txLen
          status := { busy := false, posValid := false, ack := false, err := e } }) ∨
    (commandError (commandOf s.pending) s = none ∧ (coreStep s).status.err = .none) := by
  obtain ⟨_, _, hencMove, _⟩ := commandOf_code s.pending
  have hbody := commandBody_error_cases (commandOf s.pending) (openCommand s)
  rw [commandError_open] at hbody
  rcases hbody with ⟨e, herror, hb⟩ | ⟨herror, hb⟩
  · refine .inl ⟨e, herror, ?_⟩
    rw [coreStep, hb]
    simp only [hencMove]
    split <;> rfl
  · exact .inr ⟨herror, hb⟩

theorem coreStep_err_eq_iff_commandError {e : ErrCode} (s : State) (he : e ≠ .none) :
    (coreStep s).status.err = e ↔ commandError (commandOf s.pending) s = some e := by
  rcases coreStep_error_cases s with ⟨e', herror, hs⟩ | ⟨herror, hs⟩
  · rw [herror, hs, Option.some_inj]
  · rw [herror, hs]
    exact ⟨fun h => absurd h.symm he, nofun⟩

/-! ### The cause of each error -/

theorem replyError_eq_some_iff (n : Nat) (s : State) (e : ErrCode) :
    replyError n s = some e ↔
      s.rxLen.toNat < n ∧ e = .shortRead ∨ n ≤ s.rxLen.toNat ∧ s.rxBuf[0] ≠ 0xFB ∧ e = .malformed := by
  unfold replyError
  split
  next hlen => simp [hlen, hlen.not_ge, eq_comm (a := e)]
  next hlen =>
    split
    next hheader => simpa [hlen, Nat.le_of_not_gt hlen, eq_comm (a := e)] using fun _ => hheader
    next hheader => simpa [hlen] using fun _ h => absurd h hheader

theorem replyError_eq_none_iff (n : Nat) (s : State) :
    replyError n s = none ↔ n ≤ s.rxLen.toNat ∧ s.rxBuf[0] = 0xFB := by
  refine ⟨fun hr => ?_, fun ⟨hlen, hheader⟩ => replyError_ok hlen hheader⟩
  rcases replyError_cases n s with ⟨_, hr'⟩ | ⟨_, _, hr'⟩ | ⟨hlen, hheader, _⟩
  · exact absurd (hr.symm.trans hr') nofun
  · exact absurd (hr.symm.trans hr') nofun
  · exact ⟨hlen, hheader⟩

theorem positionError_eq_some_iff (s : State) (e : ErrCode) :
    positionError s = some e ↔
      replyError 10 s = some e ∨
        replyError 10 s = none ∧ s.rxBuf[1] ≠ s.params.devAddr ∧ e = .protoMismatch := by
  unfold positionError
  cases replyError 10 s with
  | some e' => simp
  | none => simp [eq_comm (a := e)]

/-- Each error by the commands and the cause that raise it (60_exceptions.md R102, R109). -/
theorem commandError_eq_some_iff (c : Command) (s : State) (e : ErrCode) :
    commandError c s = some e ↔
      (c = .encMove ∧ moveRejected s.params = true ∧ e = .validation) ∨
      ((c = .decPing ∨ c = .decMoveack ∨ c = .decPos) ∧ replyError (if c = .decPos then 10 else 4) s = some e) ∨
      (c = .decPos ∧ replyError 10 s = none ∧ s.rxBuf[1] ≠ s.params.devAddr ∧ e = .protoMismatch) ∨
      (c = .illegal ∧ e = .illegalCmd) := by
  cases c with
  | encPing | encGetpos | csumClr => simp [commandError]
  | encMove => simp [commandError, eq_comm (a := e)]
  | decPing | decMoveack => simp [commandError]
  | decPos => simp [commandError, positionError_eq_some_iff]
  | illegal => simp [commandError, eq_comm (a := e)]

/-- Each error a core step leaves, by the codes in PENDING and the cause that raise it (60_exceptions.md R102, R109). -/
theorem coreStep_err_eq_iff {e : ErrCode} (s : State) (he : e ≠ .none) :
    (coreStep s).status.err = e ↔
      (s.pending = 0x03 ∧
        (1600 < s.params.speedHi.toNat * 2 ^ 8 + s.params.speedLo.toNat ∨ 32 < s.params.accel.toNat) ∧
        e = .validation) ∨
      ((s.pending = 0x04 ∨ s.pending = 0x05 ∨ s.pending = 0x06) ∧
        replyError (if s.pending = 0x06 then 10 else 4) s = some e) ∨
      (s.pending = 0x06 ∧ replyError 10 s = none ∧ s.rxBuf[1] ≠ s.params.devAddr ∧ e = .protoMismatch) ∨
      ((s.pending.toNat = 0 ∨ 8 ≤ s.pending.toNat) ∧ e = .illegalCmd) := by
  obtain ⟨_, _, hencMove, hdecPing, hdecMoveack, hdecPos, _, hillegal⟩ := commandOf_code s.pending
  rw [coreStep_err_eq_iff_commandError s he, commandError_eq_some_iff]
  simp only [moveRejected_iff, hencMove, hdecPing, hdecMoveack, hdecPos, hillegal]

end Sys2Proof.Machine

namespace Sys2Proof.Proofs

open Machine

/-- Settles O39: a CMD write of a code no command has is CMD_ILLEGAL, whose MemWrite latches it, and the core step of
such a code is the raise alone. -/
theorem illegalCommandRaisesIllegalCmd : Obligations.IllegalCommandRaisesIllegalCmd := by
  refine ⟨fun d hcode => ⟨?_, fun s hidle => memWrite_cmd_idle d hidle⟩, fun s hcode => ?_⟩
  · rw [decode_cmdWrite, writeInstr, if_pos rfl, (commandOf_eq_illegal_iff d).mpr hcode]
  · rw [coreStep_illegal ((commandOf_eq_illegal_iff s.pending).mpr hcode), closeCommand_raiseErr_openCommand]

/-- Settles O40: the error left is the pending command's, and each error has its own commands and cause. -/
theorem errorCodesHaveTheirCauses : Obligations.ErrorCodesHaveTheirCauses := by
  intro s
  refine ⟨?_, ?_, ?_, ?_, ?_⟩ <;> rw [coreStep_err_eq_iff s (by decide)] <;>
    simp [replyError_eq_some_iff, replyError_eq_none_iff, and_assoc]

/-- Settles O41: a core step that does not leave ERR = NONE is one that raises. -/
theorem errorsArePrecise : Obligations.ErrorsArePrecise := by
  intro s e herr hne
  rcases coreStep_error_cases s with ⟨e', _, hs⟩ | ⟨_, hnone⟩
  · have he : e' = e := by rw [← herr, hs]
    rw [hs, he]
  · exact absurd (herr.symm.trans hnone) hne

end Sys2Proof.Proofs
end

section
/-! Reset, and host writes while BUSY = 1 (70_reset_and_hazards.md R119, R120, R123, R124). -/

namespace Sys2Proof.Machine

/-! ### Reset -/

theorem byteAt_zero (n k : Nat) : byteAt (0 : BitVec n) k = 0 := BitVec.extractLsb'_zero

/-- Every register reads 0 after reset: the buffers byte by byte, the position groups as bytes of 0
(70_reset_and_hazards.md R119). -/
theorem readReg_reset (r : Reg) : readReg r State.reset = 0 := by
  cases r with
  | txBuf i => exact Vector.getElem_replicate i.isLt
  | rxBuf i => exact Vector.getElem_replicate i.isLt
  | posCarry k => exact byteAt_zero 32 k
  | posValue k => exact byteAt_zero 16 k
  | posResult k => exact byteAt_zero 64 k
  | _ => rfl

theorem readByte_reset (a : Byte) : readByte a State.reset = 0 := readReg_reset (regAt a)

/-- What a reset keeps of the state is no register, so no read sees it (log 9). -/
theorem readReg_resetRegisters (r : Reg) (s : State) : readReg r (resetRegisters s) = readReg r State.reset := by
  cases r <;> rfl

theorem readByte_resetRegisters (a : Byte) (s : State) : readByte a (resetRegisters s) = 0 :=
  (readReg_resetRegisters (regAt a) s).trans (readReg_reset (regAt a))

/-- A reset event resets the registers in every state, BUSY or not (70_reset_and_hazards.md R120). -/
theorem step_reset {s : State} {rest : List Event} (h : s.events = .reset :: rest) :
    step s = .next (resetRegisters { s with events := rest }) := by
  rw [step, nextTurn_reset s rest h]

/-! ### Writes while BUSY = 1 -/

/-- While BUSY = 1 a write to any address but CMD's is a hazard violation (70_reset_and_hazards.md R124). -/
theorem memWrite_other_busy {a : Byte} (v : Byte) {s : State} (ha : a ≠ 0x00) (h : s.status.busy = true) :
    memWrite a v s = .fault .writeWhileBusy := by
  rw [memWrite_busy a v s h, if_neg (mt (regAt_eq_cmd_iff a).mp ha)]

end Sys2Proof.Machine

namespace Sys2Proof.Proofs

open Machine

/-- Settles O8: the table's registers hold 0 by definition, and every address reads one of them or 0. -/
theorem resetStateIsAllZero : Obligations.ResetStateIsAllZero :=
  ⟨rfl, rfl, rfl, rfl, rfl, rfl, rfl, rfl, rfl, rfl, rfl, rfl, fun i => readReg_reset (.txBuf i), rfl,
    fun i => readReg_reset (.rxBuf i), rfl, rfl, rfl, rfl, rfl, readByte_reset⟩

/-- Settles O9: the step is the reset of the registers, which looks at neither BUSY nor PENDING. -/
theorem resetAbandonsThePendingCommand : Obligations.ResetAbandonsThePendingCommand := by
  intro s rest hreset
  exact ⟨resetRegisters { s with events := rest }, step_reset hreset, rfl, rfl, rfl, rfl, rfl, rfl, rfl, rfl, rfl, rfl,
    fun a => readByte_resetRegisters a _⟩

/-- Settles O19: each of these instructions is the MemWrite of its code to CMD. -/
theorem cmdWriteWhileBusyFaults : Obligations.CmdWriteWhileBusyFaults := by
  intro s hbusy
  have hcmd (v : Byte) : memWrite 0x00 v s = .fault .cmdWriteWhileBusy := memWrite_cmd_busy v hbusy
  exact ⟨hcmd 0x01, hcmd 0x02, hcmd 0x03, hcmd 0x04, hcmd 0x05, hcmd 0x06, hcmd 0x07, hcmd, hcmd⟩

/-- Settles O20: WR to an address other than CMD's and CSUM_IN are each a MemWrite to a register that is not CMD. -/
theorem otherWriteWhileBusyFaults : Obligations.OtherWriteWhileBusyFaults := fun _ hbusy =>
  ⟨fun _ d ha => memWrite_other_busy d ha hbusy, fun d => memWrite_csumIn_busy d hbusy⟩

end Sys2Proof.Proofs
end

section
/-! One step, by what is next in the schedule (20_memory.md R53), and what every completing step does to the schedule and
to BUSY. -/

namespace Sys2Proof.Machine

/-! ### The step of each event -/

theorem step_packet {s : State} {p : Packet} {i : Instr} {rest : List Event} (h : s.events = .packet p :: rest)
    (hp : decode p = .ok i) : step s = exec i { s with events := rest } := by
  rw [step, nextTurn_instr s p i rest h hp]

theorem step_core {s : State} {rest : List Event} (h : s.events = .core :: rest) :
    step s = .next (coreTurn { s with events := rest }) := by
  rw [step, nextTurn_core s rest h]

theorem step_nil {s : State} (h : s.events = []) : step s = .next (coreTurn s) := by
  rw [step, nextTurn_nil s h]

theorem step_undecodable {s : State} {p : Packet} {e : DecodeError} {rest : List Event} (h : s.events = .packet p :: rest)
    (hp : decode p = .error e) : step s = .refused (.undecodable e) := by
  rw [step, nextTurn_undecodable s p e rest h hp]

theorem coreTurn_busy {s : State} (h : s.status.busy = true) : coreTurn s = coreStep s := if_pos h

theorem coreTurn_idle {s : State} (h : s.status.busy = false) : coreTurn s = s := if_neg (by simp [h])

/-! ### The schedule and BUSY after a step -/

/-- No command changes the schedule. -/
theorem coreStep_events (s : State) : (coreStep s).events = s.events := by
  rcases commandBody_cases (commandOf s.pending) (openCommand s) with ⟨f, hb, _⟩ | ⟨hb, _⟩ | ⟨b, hb, _⟩ | ⟨hb, _⟩ |
    ⟨hb, _⟩ | ⟨e, _, hb, _⟩ <;> rw [coreStep, hb] <;> rfl

/-- The closing step clears BUSY (10_state.md R38). -/
theorem coreStep_busy (s : State) : (coreStep s).status.busy = false := rfl

theorem coreTurn_events (s : State) : (coreTurn s).events = s.events := by
  unfold coreTurn
  split
  · exact coreStep_events s
  · rfl

/-- After the core's turn no command is pending. -/
theorem coreTurn_not_busy (s : State) : (coreTurn s).status.busy = false := by
  cases h : s.status.busy with
  | true => rw [coreTurn_busy h, coreStep_busy]
  | false => rw [coreTurn_idle h, h]

/-- An instruction that completes leaves the schedule as it was. -/
theorem exec_events {i : Instr} {s t : State} (h : exec i s = .next t) : t.events = s.events := by
  rcases exec_next h with ⟨a, v, _, rfl, _⟩ | ⟨b, n, rfl, _⟩ | ⟨_, _, bs, rfl⟩
  · exact storeReg_events _ v s
  · rfl
  · rfl

/-- An instruction that completes sets BUSY iff it is a CMD write (10_state.md R20). -/
theorem exec_busy {i : Instr} {s t : State} (h : exec i s = .next t) :
    t.status.busy = (s.status.busy || startsCommand i) := by
  rcases exec_next h with ⟨a, v, hidle, rfl, hstarts⟩ | ⟨b, n, rfl, hstarts⟩ | ⟨hidle, hstarts, bs, rfl⟩
  · rw [storeReg_status, hstarts, hidle]
    by_cases hcmd : regAt a = .cmd <;> simp [hcmd, hidle]
  · simp [hstarts]
  · simp [hstarts]

/-- An instruction completes unless it writes while BUSY = 1 (70_reset_and_hazards.md R123, R124). -/
theorem exec_completes_iff (i : Instr) (s : State) :
    (∃ t, exec i s = .next t) ↔ (s.status.busy && writesRegisters i) = false := by
  rcases exec_forms i s with ⟨a, v, he, hw, _⟩ | ⟨a, he, hw, _⟩ | ⟨he, hw, _⟩ | ⟨b, bs, he, hl, hw, _⟩ <;> rw [he, hw]
  · cases hb : s.status.busy with
    | true => simp only [memWrite_busy a v s hb]; split <;> simp
    | false => simp [memWrite_idle a v s hb]
  · simp
  · simp
  · cases hb : s.status.busy with
    | true => simp [rxLoad_busy b bs s hb]
    | false => simp [rxLoad_idle (b :: bs) s hb (by simp; omega)]

/-- Every step that completes takes the oldest event. -/
theorem step_events {s t : State} (h : step s = .next t) : t.events = s.events.tail := by
  rcases step_next h with ⟨p, i, rest, hev, _, hx⟩ | ⟨rest, hev, rfl⟩ | ⟨rest, hev, rfl⟩
  · rw [exec_events hx, hev]
    rfl
  · rw [coreTurn_events]
    rcases hev with hev | ⟨hev, rfl⟩ <;> rw [hev] <;> rfl
  · rw [hev]
    rfl

end Sys2Proof.Machine

namespace Sys2Proof.Proofs

open Machine

/-- Settles O6: the next turn is the instruction's. -/
theorem stepRunsTheDecodedInstruction : Obligations.StepRunsTheDecodedInstruction := fun _ _ _ _ => step_packet

/-- Settles O5: the table word's packet is the oldest event, and without it the schedule is as it was. -/
theorem stepRunsThePlacedTableWord : Obligations.StepRunsThePlacedTableWord := by
  intro s nbits w i hi
  unfold decodeTableWord at hi
  unfold State.withFetchWord scheduleTableWord
  cases hp : packetOfTableWord nbits w with
  | none => simp [hp] at hi
  | some p =>
    rw [hp] at hi
    cases hd : decode p with
    | error e => simp [hd, Except.toOption] at hi
    | ok j =>
      obtain rfl : j = i := by simpa [hd, Except.toOption] using hi
      exact step_packet (scheduleFirst_events p s) hd

/-- Settles O7: at the core's turn, scheduled or last, BUSY decides between the core step and nothing. -/
theorem coreStepsOnlyWhileBusy : Obligations.CoreStepsOnlyWhileBusy := by
  refine ⟨fun s rest hev hbusy => ?_, fun s rest hev hidle => ?_, fun s hev hbusy => ?_, fun s hev hidle => ?_⟩
  · exact (step_core hev).trans (congrArg _ (coreTurn_busy hbusy))
  · exact (step_core hev).trans (congrArg _ (coreTurn_idle hidle))
  · rw [step_nil hev, coreTurn_busy hbusy]
  · rw [step_nil hev, coreTurn_idle hidle]

/-- Settles O10: the reset of the registers keeps these three. -/
theorem resetKeepsWhatIsNoRegister : Obligations.ResetKeepsWhatIsNoRegister := fun _ _ hreset =>
  ⟨_, step_reset hreset, rfl, rfl, rfl⟩

end Sys2Proof.Proofs
end

section
/-! Whole runs: the hazard analysis step by step (70_reset_and_hazards.md R123, R124), and where a run ends (R130). -/

namespace Sys2Proof.Machine

/-! ### The hazard analysis, one step at a time -/

/-- A schedule with a packet first is hazard-free iff the packet's instruction completes and the schedule after it is
hazard-free with the BUSY it leaves. -/
theorem hazardFree_packet {p : Packet} {i : Instr} (hp : decode p = .ok i) (busy : Bool) (rest : List Event) :
    hazardFree busy (.packet p :: rest) =
      (!(busy && writesRegisters i) && hazardFree (busy || startsCommand i) rest) := by
  rw [hazardFree, hp]

/-- The analysis looks one step ahead exactly: a schedule is hazard-free iff its first step completes and leaves a
hazard-free one. -/
theorem hazardFree_iff_step (s : State) :
    hazardFree s.status.busy s.events = true ↔
      ∃ t, step s = .next t ∧ hazardFree t.status.busy t.events = true := by
  match hev : s.events with
  | [] => simp [step_nil hev, coreTurn_events, hev, hazardFree]
  | .core :: rest => simp [step_core hev, coreTurn_events, coreTurn_not_busy, hazardFree]
  | .reset :: rest => simp [step_reset hev, State.reset, hazardFree]
  | .packet p :: rest =>
    cases hp : decode p with
    | error e => simp [step_undecodable hev hp, hazardFree, hp]
    | ok i =>
      have hcompletes := exec_completes_iff i { s with events := rest }
      rw [step_packet hev hp, hazardFree_packet hp, Bool.and_eq_true, Bool.not_eq_true', ← hcompletes]
      constructor
      · rintro ⟨⟨t, hx⟩, hrest⟩
        exact ⟨t, hx, by rw [exec_busy hx, exec_events hx]; exact hrest⟩
      · rintro ⟨t, hx, hrest⟩
        rw [exec_busy hx, exec_events hx] at hrest
        exact ⟨⟨t, hx⟩, hrest⟩

/-- From a hazard-free schedule every number of steps completes, and the schedule left is hazard-free. -/
theorem run_of_hazardFree {s : State} (h : hazardFree s.status.busy s.events = true) (k : Nat) :
    ∃ t, Host.Core.run Sys2Proof.core k s = .next t ∧ hazardFree t.status.busy t.events = true := by
  induction k generalizing s with
  | zero => exact ⟨s, run_zero s, h⟩
  | succ k ih =>
    obtain ⟨u, hs, hu⟩ := (hazardFree_iff_step s).mp h
    obtain ⟨t, hrun, ht⟩ := ih hu
    exact ⟨t, (run_next hs k).trans hrun, ht⟩

/-- A run that completes and leaves a hazard-free schedule began with one. -/
theorem hazardFree_of_run {s t : State} {k : Nat} (hrun : Host.Core.run Sys2Proof.core k s = .next t)
    (h : hazardFree t.status.busy t.events = true) : hazardFree s.status.busy s.events = true := by
  induction k generalizing s with
  | zero =>
    obtain rfl : s = t := Host.Outcome.next.inj hrun
    exact h
  | succ k ih =>
    obtain ⟨u, hs, hrest⟩ := run_completes hrun
    exact (hazardFree_iff_step s).mpr ⟨u, hs, ih hrest⟩

/-- A run that completes takes one event a step. -/
theorem run_events {s t : State} {k : Nat} (hrun : Host.Core.run Sys2Proof.core k s = .next t) :
    t.events = s.events.drop k := by
  induction k generalizing s with
  | zero =>
    obtain rfl : s = t := Host.Outcome.next.inj hrun
    rfl
  | succ k ih =>
    obtain ⟨u, hs, hrest⟩ := run_completes hrun
    rw [ih hrest, step_events hs, List.drop_tail]

/-! ### The end of a run -/

/-- An instruction is a host write or made of host writes, a read, or the sending of a frame. -/
theorem instr_kinds (i : Instr) :
    (writesRegisters i = true ∧ sendsFrame i = false) ∨ ((∃ a d, i = .rd a d) ∧ sendsFrame i = false) ∨
      (sendsFrame i = true ∧ writesRegisters i = false ∧ startsCommand i = false ∧ ∀ u, exec i u = .next u) := by
  cases i with
  | rd a d => exact .inr (.inl ⟨⟨a, d, rfl⟩, rfl⟩)
  | framePing | frameGetpos | frameMove => exact .inr (.inr ⟨rfl, rfl, rfl, fun _ => rfl⟩)
  | _ => exact .inl ⟨rfl, rfl⟩

/-- The instructions that change nothing in any state are the sent frames: with a command pending a write faults and a
read draws a value. -/
theorem sendsFrame_iff (i : Instr) : sendsFrame i = true ↔ ∀ u, exec i u = .next u := by
  rcases instr_kinds i with ⟨hw, hs⟩ | ⟨⟨a, d, rfl⟩, hs⟩ | ⟨hs, _, _, hx⟩ <;> rw [hs]
  · refine ⟨nofun, fun hx => ?_⟩
    have hcompletes := (exec_completes_iff i (latchCommand 0 State.reset)).mp ⟨_, hx _⟩
    exact absurd (hw.symm.trans hcompletes) (by decide)
  · refine ⟨nofun, fun hx => ?_⟩
    have hdraws := congrArg State.draws (Host.Outcome.next.inj (hx (latchCommand 0 State.reset)))
    exact absurd hdraws (Nat.succ_ne_self _)
  · exact ⟨fun _ => hx, fun _ => rfl⟩

/-- No host word sends a frame (30_encoding.md R61). -/
theorem sendsFrame_decodeHost {w : BitVec 17} {i : Instr} (h : decodeHost w = .ok i) : sendsFrame i = false := by
  rcases word_cases w with hw | hw <;> rw [hw] at h
  · obtain rfl := Except.ok.inj ((decodeHost_writeWord _ _).symm.trans h)
    rw [← Bool.not_eq_true, sendsFrame_iff]
    intro hx
    have hfault := hx (latchCommand 0 State.reset)
    rw [exec_writeInstr, memWrite_busy _ _ _ rfl] at hfault
    split at hfault <;> cases hfault
  · obtain rfl := Except.ok.inj ((decodeHost_readWord _ _).symm.trans h)
    rfl

/-- The events that are no transaction (70_reset_and_hazards.md R118; log 23). -/
theorem isTransaction_eq_false_iff (e : Event) :
    isTransaction e = false ↔ e = .core ∨ e = .reset ∨
      ∃ bs i, e = .packet (.link bs) ∧ decode (.link bs) = .ok i ∧ ∀ u, exec i u = .next u := by
  match e with
  | .core => simp [isTransaction]
  | .reset => simp [isTransaction]
  | .packet (.host w) =>
    obtain ⟨i, hd, _⟩ := decodeHost_total w
    simp [isTransaction, decode, hd, sendsFrame_decodeHost hd]
  | .packet (.link bs) =>
    cases hd : decode (.link bs) with
    | error e => simp [isTransaction, hd]
    | ok i => simp [isTransaction, hd, sendsFrame_iff]

/-- An ended run stays ended: a step takes one event, and none ahead is a CMD write. -/
theorem runEnded_step {s t : State} (h : runEnded s = true) (hs : step s = .next t) : runEnded t = true := by
  rw [runEnded_iff] at h ⊢
  obtain ⟨hquiet, hidle⟩ := h
  refine ⟨fun e he => hquiet e (List.mem_of_mem_tail (step_events hs ▸ he)), ?_⟩
  rcases step_next hs with ⟨p, i, rest, hev, hp, hx⟩ | ⟨rest, _, rfl⟩ | ⟨rest, _, rfl⟩
  · have hsends : sendsFrame i = true := by simpa [isTransaction, hp] using hquiet (.packet p) (by simp [hev])
    obtain rfl := Host.Outcome.next.inj (((sendsFrame_iff i).mp hsends _).symm.trans hx)
    exact hidle
  · exact coreTurn_not_busy _
  · rfl

/-- What is ahead of an ended run breaks no hazard rule: sent frames decode and write nothing. -/
theorem hazardFree_of_no_transaction (busy : Bool) (events : List Event)
    (h : ∀ e ∈ events, isTransaction e = false) : hazardFree busy events = true := by
  induction events generalizing busy with
  | nil => rfl
  | cons e rest ih =>
    have hrest := fun b => ih b fun e he => h e (List.mem_cons_of_mem _ he)
    match e, h e (List.mem_cons_self ..) with
    | .core, _ => exact hrest false
    | .reset, _ => exact hrest false
    | .packet p, hquiet =>
      cases hp : decode p with
      | error e => simp [isTransaction, hp] at hquiet
      | ok i =>
        have hsends : sendsFrame i = true := by simpa [isTransaction, hp] using hquiet
        rcases instr_kinds i with ⟨_, hs⟩ | ⟨_, hs⟩ | ⟨_, hw, _⟩
        · simp [hs] at hsends
        · simp [hs] at hsends
        · rw [hazardFree_packet hp, hw, hrest]
          simp

/-- The last step of a run. -/
theorem run_last {s t : State} {k : Nat} (hrun : Host.Core.run Sys2Proof.core (k + 1) s = .next t) :
    ∃ u : State, Host.Core.run Sys2Proof.core k s = .next u ∧ step u = .next t := by
  induction k generalizing s with
  | zero =>
    obtain ⟨u, hs, hrest⟩ := run_completes hrun
    exact ⟨s, run_zero s, hs.trans hrest⟩
  | succ k ih =>
    obtain ⟨u, hs, hrest⟩ := run_completes hrun
    obtain ⟨v, hv, hlast⟩ := ih hrest
    exact ⟨v, (run_next hs k).trans hv, hlast⟩

/-- One step past the schedule nothing is ahead and BUSY = 0: that step is the core's (log 3). -/
theorem run_past_schedule {s t : State} (hrun : Host.Core.run Sys2Proof.core (s.events.length + 1) s = .next t) :
    t.events = [] ∧ t.status.busy = false := by
  obtain ⟨u, hu, hlast⟩ := run_last hrun
  have hev : u.events = [] := by rw [run_events hu, List.drop_length]
  rw [step_nil hev] at hlast
  obtain rfl := Host.Outcome.next.inj hlast
  exact ⟨(coreTurn_events u).trans hev, coreTurn_not_busy u⟩

/-! ### The first point at which a run has ended -/

/-- After `k` steps from `s` the run has ended, in state `t`, and it had not ended before (70_reset_and_hazards.md R130). -/
def FirstEndedAfter (k : Nat) (s t : State) : Prop :=
  Host.Core.run Sys2Proof.core k s = .next t ∧ runEnded t = true ∧
    ∀ (j : Nat) (u : State), j < k → Host.Core.run Sys2Proof.core j s = .next u → runEnded u = false

theorem firstEndedAfter_zero_iff (s t : State) : FirstEndedAfter 0 s t ↔ runEnded s = true ∧ t = s := by
  constructor
  · rintro ⟨hrun, hended, _⟩
    obtain rfl : s = t := Host.Outcome.next.inj hrun
    exact ⟨hended, rfl⟩
  · rintro ⟨hended, rfl⟩
    exact ⟨rfl, hended, fun j u hj => absurd hj (Nat.not_lt_zero j)⟩

theorem firstEndedAfter_succ_iff (k : Nat) (s t : State) :
    FirstEndedAfter (k + 1) s t ↔ runEnded s = false ∧ ∃ u, step s = .next u ∧ FirstEndedAfter k u t := by
  constructor
  · rintro ⟨hrun, hended, hbefore⟩
    obtain ⟨u, hs, hrest⟩ := run_completes hrun
    refine ⟨hbefore 0 s (Nat.succ_pos k) rfl, u, hs, hrest, hended, fun j v hj hv => ?_⟩
    exact hbefore (j + 1) v (Nat.succ_lt_succ hj) ((run_next hs j).trans hv)
  · rintro ⟨hgoes, u, hs, hrest, hended, hbefore⟩
    refine ⟨(run_next hs k).trans hrest, hended, fun j v hj hv => ?_⟩
    cases j with
    | zero =>
      obtain rfl : s = v := Host.Outcome.next.inj hv
      exact hgoes
    | succ j => exact hbefore j v (Nat.lt_of_succ_lt_succ hj) ((run_next hs j).symm.trans hv)

/-- `runToEnd` answers the first state within its bound at which the run has ended. -/
theorem runToEnd_eq_some_iff (n : Nat) (s t : State) :
    runToEnd n s = some t ↔ ∃ k ≤ n, FirstEndedAfter k s t := by
  constructor
  · intro h
    induction n generalizing s with
    | zero =>
      rcases runToEnd_some h with ⟨hended, ht⟩ | ⟨_, _, j, hj, _⟩
      · exact ⟨0, le_rfl, (firstEndedAfter_zero_iff s t).mpr ⟨hended, ht⟩⟩
      · exact absurd hj.symm (Nat.succ_ne_zero j)
    | succ n ih =>
      rcases runToEnd_some h with ⟨hended, ht⟩ | ⟨hgoes, u, j, hj, hs, hrest⟩
      · exact ⟨0, Nat.zero_le _, (firstEndedAfter_zero_iff s t).mpr ⟨hended, ht⟩⟩
      · obtain rfl := Nat.succ.inj hj
        obtain ⟨k, hk, hfirst⟩ := ih u hrest
        exact ⟨k + 1, Nat.succ_le_succ hk, (firstEndedAfter_succ_iff k s t).mpr ⟨hgoes, u, hs, hfirst⟩⟩
  · rintro ⟨k, hk, hfirst⟩
    induction k generalizing s n with
    | zero =>
      obtain ⟨hended, rfl⟩ := (firstEndedAfter_zero_iff s t).mp hfirst
      exact runToEnd_ended hended n
    | succ k ih =>
      obtain ⟨hgoes, u, hs, hrest⟩ := (firstEndedAfter_succ_iff k s t).mp hfirst
      obtain ⟨m, rfl⟩ := Nat.exists_eq_succ_of_ne_zero (Nat.ne_zero_of_lt hk)
      rw [runToEnd_next hgoes hs]
      exact ih m u (Nat.le_of_succ_le_succ hk) hrest

/-- A run that comes to an ended state has a first one. -/
theorem exists_firstEndedAfter {s t : State} {k : Nat} (hrun : Host.Core.run Sys2Proof.core k s = .next t)
    (hended : runEnded t = true) : ∃ j ≤ k, ∃ u, FirstEndedAfter j s u := by
  induction k generalizing s with
  | zero =>
    obtain rfl : s = t := Host.Outcome.next.inj hrun
    exact ⟨0, le_rfl, s, (firstEndedAfter_zero_iff s s).mpr ⟨hended, rfl⟩⟩
  | succ k ih =>
    cases hs : runEnded s with
    | true => exact ⟨0, Nat.zero_le _, s, (firstEndedAfter_zero_iff s s).mpr ⟨hs, rfl⟩⟩
    | false =>
      obtain ⟨u, hstep, hrest⟩ := run_completes hrun
      obtain ⟨j, hj, v, hfirst⟩ := ih hrest
      exact ⟨j + 1, Nat.succ_le_succ hj, v, (firstEndedAfter_succ_iff j s v).mpr ⟨hs, u, hstep, hfirst⟩⟩

/-- From a hazard-free schedule one step more than it is long reaches an ended run. -/
theorem run_of_hazardFree_ends {s : State} (h : hazardFree s.status.busy s.events = true) :
    ∃ t, Host.Core.run Sys2Proof.core (s.events.length + 1) s = .next t ∧ t.events = [] ∧ t.status.busy = false ∧
      runEnded t = true := by
  obtain ⟨t, hrun, _⟩ := run_of_hazardFree h (s.events.length + 1)
  obtain ⟨hev, hidle⟩ := run_past_schedule hrun
  exact ⟨t, hrun, hev, hidle, (runEnded_iff t).mpr ⟨by simp [hev], hidle⟩⟩

end Sys2Proof.Machine

namespace Sys2Proof.Proofs

open Machine

/-- Settles O53: a run through the whole schedule leaves the empty one, which is hazard-free. -/
theorem hazardFreeSchedulesAreExactlyThoseThatRun : Obligations.HazardFreeSchedulesAreExactlyThoseThatRun := by
  intro s
  constructor
  · intro h
    obtain ⟨t, hrun, _⟩ := run_of_hazardFree h s.events.length
    exact ⟨t, hrun⟩
  · rintro ⟨t, hrun⟩
    apply hazardFree_of_run hrun
    rw [run_events hrun, List.drop_length]
    rfl

/-- Settles O55: the analysis holds along the run. -/
theorem hazardFreeRunsNeverStop : Obligations.HazardFreeRunsNeverStop := by
  intro s k h
  obtain ⟨t, hrun, _⟩ := run_of_hazardFree h k
  exact ⟨t, hrun⟩

/-- Settles O58: the events that are no transaction are these, and no step from an ended run sets BUSY. -/
theorem runEndsWithTheLastTransactionAndBusyZero : Obligations.RunEndsWithTheLastTransactionAndBusyZero := by
  refine ⟨fun s => ?_, fun s h => runToEnd_ended h _, fun s t => runEnded_step⟩
  simp only [runEnded_iff, isTransaction_eq_false_iff, and_comm]

/-- Settles O56: the last step of the bound is the core's, and with nothing ahead and BUSY = 0 a step changes nothing. -/
theorem hazardFreeRunsEnd : Obligations.HazardFreeRunsEnd := by
  intro s h
  obtain ⟨t, hrun, hev, hidle, hended⟩ := run_of_hazardFree_ends h
  have hstays : step t = .next t := by rw [step_nil hev, coreTurn_idle hidle]
  exact ⟨t, hrun, hev, hidle, hended, run_next hstays 0⟩

/-- Settles O59: `runToEnd` answers the first ended state within its bound, a hazard-free run has one there, and what is
ahead of an ended run is hazard-free. -/
theorem finalStateIsWhereTheRunEnds : Obligations.FinalStateIsWhereTheRunEnds := by
  refine ⟨fun s t => runToEnd_eq_some_iff (s.events.length + 1) s t, fun s => ⟨fun h => ?_, ?_⟩⟩
  · obtain ⟨t, hrun, _, _, hended⟩ := run_of_hazardFree_ends h
    obtain ⟨k, hk, u, hfirst⟩ := exists_firstEndedAfter hrun hended
    exact ⟨u, (runToEnd_eq_some_iff _ s u).mpr ⟨k, hk, hfirst⟩⟩
  · rintro ⟨t, h⟩
    obtain ⟨k, _, hrun, hended, _⟩ := (runToEnd_eq_some_iff _ s t).mp h
    obtain ⟨hquiet, _⟩ := (runEnded_iff t).mp hended
    exact hazardFree_of_run hrun (hazardFree_of_no_transaction _ _ hquiet)

end Sys2Proof.Proofs
end

section
/-! Encoding and decoding of the rows (30_encoding.md R59 to R75). -/

namespace Sys2Proof

open Machine

/-! ### The packed bytes of the move frame (30_encoding.md R68, R69) -/

theorem moveByte3_reserved (d : BitVec 1) (h : BitVec 4) : (d ++ 0#3 ++ h).extractLsb' 4 3 = 0#3 := by
  revert d h
  decide

theorem moveByte3_dir (d : BitVec 1) (h : BitVec 4) : (d ++ 0#3 ++ h).extractLsb' 7 1 = d := by
  revert d h
  decide

theorem moveByte3_speed (d : BitVec 1) (h : BitVec 4) : (d ++ 0#3 ++ h).extractLsb' 0 4 = h := by
  revert d h
  decide

theorem moveByte4_reserved (t : BitVec 4) : (0#4 ++ t).extractLsb' 4 4 = 0#4 := by
  revert t
  decide

theorem moveByte4_speed (t : BitVec 4) : (0#4 ++ t).extractLsb' 0 4 = t := by
  revert t
  decide

/-- A byte 3 with its reserved bits 0 is its two fields. -/
theorem moveByte3_of_reserved (b : Byte) (h : b.extractLsb' 4 3 = 0#3) :
    b.extractLsb' 7 1 ++ 0#3 ++ b.extractLsb' 0 4 = b := by
  revert b
  decide

/-- A byte 4 with its reserved bits 0 is its one field. -/
theorem moveByte4_of_reserved (b : Byte) (h : b.extractLsb' 4 4 = 0#4) : 0#4 ++ b.extractLsb' 0 4 = b := by
  revert b
  decide

/-! ### Encode, then decode -/

/-- The frame decoder on an encoded move frame, whatever its checksum and acceleration. -/
theorem decodeLink_moveFrame (a : Byte) (d : BitVec 1) (h t : BitVec 4) (g : Byte) (p : BitVec 32) (c : Byte) :
    decode (encode (.frameMove a d h t g p c)) = .ok (.frameMove a d h t g p c) := by
  change decodeLink11 0xFA a 0xFD (d ++ 0#3 ++ h) (0#4 ++ t) g (byteAt p 3) (byteAt p 2) (byteAt p 1) (byteAt p 0) c = _
  have hreserved : ¬((d ++ 0#3 ++ h).extractLsb' 4 3 ≠ 0#3 ∨ (0#4 ++ t).extractLsb' 4 4 ≠ 0#4) := by
    rw [moveByte3_reserved, moveByte4_reserved]
    decide
  rw [decodeLink11, if_neg (not_not_intro rfl), if_neg (not_not_intro rfl), if_neg hreserved, moveByte3_dir,
    moveByte3_speed, moveByte4_speed, be32_byteAt]

theorem decodeLink_posReply (a e : Byte) (k : BitVec 32) (v : BitVec 16) (z : Byte) :
    decode (encode (.framePosReply a e k v z)) = .ok (.framePosReply a e k v z) := by
  change decodeLink10 0xFB a e (byteAt k 3) (byteAt k 2) (byteAt k 1) (byteAt k 0) (byteAt v 1) (byteAt v 0) z = _
  rw [decodeLink10, if_pos rfl, be32_byteAt, be16_byteAt]

/-! ### Decode, then encode -/

theorem encode_of_decodeLink4 {b0 b1 b2 b3 : Byte} {i : Instr} (h : decodeLink4 b0 b1 b2 b3 = .ok i) :
    encode i = .link [b0, b1, b2, b3] := by
  unfold decodeLink4 at h
  split at h
  next h0 =>
    split at h
    next h2 =>
      obtain rfl := Except.ok.inj h
      rw [h0, h2, encode]
    next =>
      split at h
      next h2 =>
        obtain rfl := Except.ok.inj h
        rw [h0, h2, encode]
      next => cases h
  next =>
    split at h
    next h0 =>
      obtain rfl := Except.ok.inj h
      rw [h0, encode]
    next => cases h

theorem encode_of_decodeLink10 {b0 b1 b2 b3 b4 b5 b6 b7 b8 b9 : Byte} {i : Instr}
    (h : decodeLink10 b0 b1 b2 b3 b4 b5 b6 b7 b8 b9 = .ok i) :
    encode i = .link [b0, b1, b2, b3, b4, b5, b6, b7, b8, b9] := by
  unfold decodeLink10 at h
  split at h
  next h0 =>
    obtain rfl := Except.ok.inj h
    simp only [encode, h0, byteAt_be32_three, byteAt_be32_two, byteAt_be32_one, byteAt_be32_zero, byteAt_be16_one,
      byteAt_be16_zero]
  next => cases h

theorem encode_of_decodeLink11 {b0 b1 b2 b3 b4 b5 b6 b7 b8 b9 b10 : Byte} {i : Instr}
    (h : decodeLink11 b0 b1 b2 b3 b4 b5 b6 b7 b8 b9 b10 = .ok i) :
    encode i = .link [b0, b1, b2, b3, b4, b5, b6, b7, b8, b9, b10] := by
  unfold decodeLink11 at h
  split at h
  next => cases h
  next h0 =>
    split at h
    next => cases h
    next h2 =>
      split at h
      next => cases h
      next hreserved =>
        obtain ⟨h3, h4⟩ := not_or.mp hreserved
        obtain rfl := Except.ok.inj h
        simp only [encode, moveByte3_of_reserved b3 (not_not.mp h3), moveByte4_of_reserved b4 (not_not.mp h4),
          not_not.mp h0, not_not.mp h2, byteAt_be32_three, byteAt_be32_two, byteAt_be32_one, byteAt_be32_zero]

end Sys2Proof

namespace Sys2Proof.Proofs

open Machine

/-- Settles O1: a host write row is the instruction of the write word it encodes to, and each frame decoder reads the
fields its frame was built from. -/
theorem decodeOfEncodeIsTheInstruction : Obligations.DecodeOfEncodeIsTheInstruction := by
  intro i hwf
  cases i with
  | encPing => exact decode_cmdWrite 0x01
  | encGetpos => exact decode_cmdWrite 0x02
  | encMove => exact decode_cmdWrite 0x03
  | decPing => exact decode_cmdWrite 0x04
  | decMoveack => exact decode_cmdWrite 0x05
  | decPos => exact decode_cmdWrite 0x06
  | csumClr => exact decode_cmdWrite 0x07
  | cmdIllegal d =>
    have hcode : isCommandCode d = false := by simpa [Instr.wf] using hwf
    refine (decode_cmdWrite d).trans ?_
    rw [writeInstr, if_pos rfl, (commandOf_illegal_iff d).mpr hcode]
  | csumIn d => exact decodeHost_writeWord 0x0F d
  | wr a d =>
    obtain ⟨hcmd, hcsum⟩ : a ≠ 0x00 ∧ a ≠ 0x0F := by simpa [Instr.wf] using hwf
    refine (decodeHost_writeWord a d).trans ?_
    rw [writeInstr, if_neg hcmd, if_neg hcsum]
  | rd a d => exact decodeHost_readWord a d
  | framePing a c => rfl
  | frameGetpos a c => rfl
  | frameMove a d h t g p c => exact decodeLink_moveFrame a d h t g p c
  | frameStatusReply a e r => rfl
  | framePosReply a e k v z => exact decodeLink_posReply a e k v z

/-- Settles O3: the frames of each length encode back. -/
theorem decodedLinkFrameEncodesBack : Obligations.DecodedLinkFrameEncodesBack := by
  intro bs i h
  change decodeLink bs = .ok i at h
  unfold decodeLink at h
  split at h
  · exact encode_of_decodeLink4 h
  · exact encode_of_decodeLink10 h
  · exact encode_of_decodeLink11 h
  · cases h

/-- Settles O4: the host words are write and read words of their fields, the frames a ping and a status reply. -/
theorem wordsOfTheSpecDecodeRight : Obligations.WordsOfTheSpecDecodeRight :=
  ⟨decodeHost_writeWord 0x03 0x01, decode_cmdWrite 0x02, decodeHost_readWord 0x01 0x00, decodeHost_writeWord 0x0F 0xFA,
    decode_cmdWrite 0x08, rfl, rfl⟩

end Sys2Proof.Proofs
end

section
/-! Positions are exact: the range of the formulas (42_decoder.md R96 to R98). -/

namespace Sys2Proof.Machine

theorem toInt_bounds_32 (k : BitVec 32) : -2147483648 ≤ k.toInt ∧ k.toInt ≤ 2147483647 := by
  have hlow := k.le_toInt
  have hhigh := k.toInt_lt
  omega

theorem formulaA_range (k : BitVec 32) (v : BitVec 16) :
    -773094113280 ≤ formulaA k.toInt v.toNat ∧ formulaA k.toInt v.toNat ≤ 773094114361 := by
  have hv := v.isLt
  obtain ⟨hlow, hhigh⟩ := toInt_bounds_32 k
  unfold formulaA
  omega

theorem formulaB_range (k : BitVec 32) (v : BitVec 16) :
    -35182224605184 ≤ formulaB k.toInt v.toNat ∧ formulaB k.toInt v.toNat ≤ 35182224654336 := by
  have hv := v.isLt
  obtain ⟨hlow, hhigh⟩ := toInt_bounds_32 k
  unfold formulaB
  omega

/-- CONFIG.FMT selects one of the two formulas (42_decoder.md R95). -/
theorem positionOf_cases (fmt : BitVec 1) (k : Int) (v : Nat) :
    positionOf fmt k v = formulaA k v ∨ positionOf fmt k v = formulaB k v := by
  unfold positionOf
  split
  · exact .inl rfl
  · exact .inr rfl

/-- The 64-bit pattern of a position is the position: both ranges fit 64 bits (42_decoder.md R98). -/
theorem positionOf_exact (fmt : BitVec 1) (k : BitVec 32) (v : BitVec 16) :
    (BitVec.ofInt 64 (positionOf fmt k.toInt v.toNat)).toInt = positionOf fmt k.toInt v.toNat := by
  have hA := formulaA_range k v
  have hB := formulaB_range k v
  rw [BitVec.toInt_ofInt]
  rcases positionOf_cases fmt k.toInt v.toNat with h | h <;> rw [h] <;> exact Int.bmod_eq_of_le (by omega) (by omega)

/-- The position DEC_POS decodes meets the invariant of the position groups. -/
theorem decodedPosition_ok (fmt : BitVec 1) (b : Vector Byte 10) : positionOk (decodedPosition fmt b) := by
  have hexact := positionOf_exact fmt (carryBits b) (valueBits b)
  rcases positionOf_cases fmt (carryBits b).toInt (valueBits b).toNat with h | h
  · exact .inl (hexact.trans h)
  · exact .inr (hexact.trans h)

end Sys2Proof.Machine

namespace Sys2Proof.Proofs

open Machine

/-- Settles O36: the ranges, and with them the exactness of the 64-bit pattern. -/
theorem positionResultIsExact : Obligations.PositionResultIsExact := by
  refine ⟨fun k v => ?_, by decide, by decide, by decide, by decide⟩
  obtain ⟨hAlow, hAhigh⟩ := formulaA_range k v
  obtain ⟨hBlow, hBhigh⟩ := formulaB_range k v
  exact ⟨hAlow, hAhigh, hBlow, hBhigh, fun fmt => positionOf_exact fmt k v⟩

/-- Settles O37: the adjustment is the quotient of a number below 2 ^ 16 * 22 by 1000. -/
theorem positionFormulaCornerCases : Obligations.PositionFormulaCornerCases := by
  refine ⟨fun k v => ?_, by decide, by decide, by decide, by decide, by decide, by decide⟩
  have hv := v.isLt
  have hadjustment : formulaA k v.toNat - k * 360 = ((v.toNat * 22 / 1000 : Nat) : Int) := by
    unfold formulaA
    omega
  rw [hadjustment]
  omega

end Sys2Proof.Proofs
end

section
/-! The core step as a whole: what each command leaves, and what it leaves alone (10_state.md R38, R40). -/

namespace Sys2Proof.Machine

/-! ### What a core step leaves -/

/-- STATUS after a core step: BUSY = 0 and, beside the results given, nothing else set (10_state.md R38). -/
def doneStatus (posValid ack : Bool) (e : ErrCode) : Status :=
  { busy := false, posValid := posValid, ack := ack, err := e }

/-- All a core step can leave: a frame, no frame and VALIDATION, ACK, a position with POS_VALID, a cleared CSUM_ACC, or an
error; the code in PENDING decides which (10_state.md R40). -/
theorem coreStep_cases (s : State) :
    (∃ f, coreStep s =
        { s with
          txBuf := overlay s.txBuf f
          txLen := BitVec.ofNat 4 f.length
          status := doneStatus false false .none } ∧
      (f = pingFrame s.params.devAddr ∧ s.pending = 0x01 ∨ f = getposFrame s.params.devAddr ∧ s.pending = 0x02 ∨
        f = moveFrame s.params.devAddr s.params.dir (speedOf s.params) s.params.accel (pulsesOf s.params) ∧
          s.pending = 0x03 ∧ moveRejected s.params = false)) ∨
    (coreStep s = { s with txLen := 0, status := doneStatus false false .validation } ∧ s.pending = 0x03) ∨
    (∃ b, coreStep s = { s with status := doneStatus false b .none } ∧ (s.pending = 0x04 ∨ s.pending = 0x05)) ∨
    (coreStep s = { s with pos := decodedPosition s.fmt s.rxBuf, status := doneStatus true false .none } ∧
      s.pending = 0x06) ∨
    (coreStep s = { s with csumAcc := 0x00, status := doneStatus false false .none } ∧ s.pending = 0x07) ∨
    (∃ e, e ≠ .none ∧ coreStep s = { s with status := doneStatus false false e }) := by
  obtain ⟨k1, k2, k3, k4, k5, k6, k7, _⟩ := commandOf_code s.pending
  have hclose {t : State} (hb : commandBody (commandOf s.pending) (openCommand s) = t) : coreStep s = closeCommand t :=
    congrArg closeCommand hb
  rcases commandBody_cases (commandOf s.pending) (openCommand s) with ⟨f, hb, hf⟩ | ⟨hb, hc, _⟩ | ⟨b, hb, hc, _⟩ |
    ⟨hb, hc, _⟩ | ⟨hb, hc⟩ | ⟨e, he, hb, _⟩
  · refine .inl ⟨f, hclose hb, ?_⟩
    rw [k1, k2, k3] at hf
    exact hf
  · exact .inr (.inl ⟨hclose hb, k3.mp hc⟩)
  · exact .inr (.inr (.inl ⟨b, hclose hb, hc.imp k4.mp k5.mp⟩))
  · exact .inr (.inr (.inr (.inl ⟨hclose hb, k6.mp hc⟩)))
  · exact .inr (.inr (.inr (.inr (.inl ⟨hclose hb, k7.mp hc⟩))))
  · exact .inr (.inr (.inr (.inr (.inr ⟨e, he, hclose hb⟩))))

/-! ### What no core step touches -/

/-- No command writes CONFIG, the parameters, RX_LEN or PENDING, nor what is no register (10_state.md R40; log 21). -/
theorem coreStep_frame (s : State) :
    (coreStep s).fmt = s.fmt ∧ (coreStep s).params = s.params ∧ (coreStep s).rxLen = s.rxLen ∧
    (coreStep s).pending = s.pending ∧ (coreStep s).rdata = s.rdata ∧ (coreStep s).draws = s.draws := by
  rcases coreStep_cases s with ⟨f, hs, _⟩ | ⟨hs, _⟩ | ⟨b, hs, _⟩ | ⟨hs, _⟩ | ⟨hs, _⟩ | ⟨e, _, hs⟩ <;> rw [hs] <;>
    exact ⟨rfl, rfl, rfl, rfl, rfl, rfl⟩

/-- TX_BUF and TX_LEN are the encode commands'. -/
theorem coreStep_tx {s : State} (h1 : s.pending ≠ 0x01) (h2 : s.pending ≠ 0x02) (h3 : s.pending ≠ 0x03) :
    (coreStep s).txBuf = s.txBuf ∧ (coreStep s).txLen = s.txLen := by
  rcases coreStep_cases s with ⟨f, _, ⟨_, hp⟩ | ⟨_, hp⟩ | ⟨_, hp, _⟩⟩ | ⟨_, hp⟩ | ⟨b, hs, _⟩ | ⟨hs, _⟩ | ⟨hs, _⟩ |
    ⟨e, _, hs⟩
  · exact absurd hp h1
  · exact absurd hp h2
  · exact absurd hp h3
  · exact absurd hp h3
  all_goals rw [hs]; exact ⟨rfl, rfl⟩

/-- The position groups are DEC_POS's. -/
theorem coreStep_pos {s : State} (h : s.pending ≠ 0x06) : (coreStep s).pos = s.pos := by
  rcases coreStep_cases s with ⟨f, hs, _⟩ | ⟨hs, _⟩ | ⟨b, hs, _⟩ | ⟨_, hp⟩ | ⟨hs, _⟩ | ⟨e, _, hs⟩
  case inr.inr.inr.inl => exact absurd hp h
  all_goals rw [hs]

/-- CSUM_ACC is CSUM_CLR's. -/
theorem coreStep_csumAcc {s : State} (h : s.pending ≠ 0x07) : (coreStep s).csumAcc = s.csumAcc := by
  rcases coreStep_cases s with ⟨f, hs, _⟩ | ⟨hs, _⟩ | ⟨b, hs, _⟩ | ⟨hs, _⟩ | ⟨_, hp⟩ | ⟨e, _, hs⟩
  case inr.inr.inr.inr.inl => exact absurd hp h
  all_goals rw [hs]

/-- ENC_PING and ENC_GETPOS leave TX_BUF from index 4 on as it was (10_state.md R29). -/
theorem coreStep_txBuf_above {s : State} (h : s.pending = 0x01 ∨ s.pending = 0x02) {j : Nat} (hj : j < 11)
    (h4 : 4 ≤ j) : (coreStep s).txBuf[j] = s.txBuf[j] := by
  rcases h with hp | hp
  · rw [coreStep_encPing hp]
    exact overlay_getElem_above s.txBuf _ j hj h4
  · rw [coreStep_encGetpos hp]
    exact overlay_getElem_above s.txBuf _ j hj h4

end Sys2Proof.Machine

namespace Sys2Proof.Proofs

open Machine

/-- Settles O42: case by case of what a core step leaves. -/
theorem noResultBesideAnError : Obligations.NoResultBesideAnError := by
  intro s
  rcases coreStep_cases s with ⟨f, hs, hf⟩ | ⟨hs, hp⟩ | ⟨b, hs, hp⟩ | ⟨hs, hp⟩ | ⟨hs, hp⟩ | ⟨e, he, hs⟩ <;> rw [hs]
  · rcases hf with ⟨_, hp⟩ | ⟨_, hp⟩ | ⟨_, hp, _⟩ <;> simp [doneStatus, hp]
  · simp [doneStatus]
  · rcases hp with hp | hp <;> simp [doneStatus, hp]
  · simp [doneStatus, hp]
  · simp [doneStatus, hp]
  · simp [doneStatus, he]

/-- Settles O43: each register with the commands that may write it. -/
theorem commandsWriteOnlyTheirRegisters : Obligations.CommandsWriteOnlyTheirRegisters := by
  intro s
  obtain ⟨hfmt, hparams, hrxLen, hpending, hrdata, hdraws⟩ := coreStep_frame s
  exact ⟨hfmt, hparams, hrxLen, coreStep_rxBuf s, hpending, hrdata, hdraws, coreStep_events s, coreStep_tx,
    fun hp j hj => coreStep_txBuf_above hp hj, coreStep_pos, coreStep_csumAcc⟩

end Sys2Proof.Proofs
end

section
/-! What any completing step can be, register by register: which steps change results, CSUM_ACC and BUSY
(10_state.md R19, R32, R37, 70_reset_and_hazards.md R126). -/

namespace Sys2Proof.Machine

/-- All a completing step can be: a store while BUSY = 0, a step that changes what is no register, a loaded reply while
BUSY = 0, a turn of the core (or the step of an empty schedule, log 3), or a reset. -/
theorem step_cases {s t : State} (h : step s = .next t) :
    (∃ a v, s.events.head? = some (.packet (.host (writeWord a v))) ∧ s.status.busy = false ∧
      t = storeReg (regAt a) v { s with events := s.events.tail }) ∨
    (∃ p b n, s.events.head? = some (.packet p) ∧ t = { s with rdata := b, draws := n, events := s.events.tail }) ∨
    (s.status.busy = false ∧ ∃ p rb rl, s.events.head? = some (.packet p) ∧
      t = { s with rxBuf := rb, rxLen := rl, events := s.events.tail }) ∨
    ((s.events.head? = some .core ∨ s.events = []) ∧ t = coreTurn { s with events := s.events.tail }) ∨
    (s.events.head? = some .reset ∧ t = resetRegisters { s with events := s.events.tail }) := by
  rcases step_next h with ⟨p, i, rest, hev, hp, hx⟩ | ⟨rest, hev, ht⟩ | ⟨rest, hev, ht⟩
  · rw [hev]
    rcases packet_next hp hx with ⟨a, v, rfl, hidle, ht⟩ | ⟨b, n, ht⟩ | ⟨hidle, bs, ht⟩
    · exact .inl ⟨a, v, rfl, hidle, ht⟩
    · exact .inr (.inl ⟨p, b, n, rfl, ht⟩)
    · exact .inr (.inr (.inl ⟨hidle, p, _, _, rfl, ht⟩))
  · refine .inr (.inr (.inr (.inl ?_)))
    rcases hev with hev | ⟨hev, rfl⟩ <;> rw [hev]
    · exact ⟨.inl rfl, ht⟩
    · exact ⟨.inr rfl, ht⟩
  · rw [hev]
    exact .inr (.inr (.inr (.inr ⟨rfl, ht⟩)))

/-- A store changes CSUM_ACC only where its word is a CSUM_IN write, whose byte it adds (10_state.md R32). -/
theorem storeReg_regAt_csumAcc (a v : Byte) (s : State) :
    (storeReg (regAt a) v s).csumAcc = s.csumAcc ∨ a = 0x0F ∧ (storeReg (regAt a) v s).csumAcc = s.csumAcc + v := by
  rw [storeReg_csumAcc]
  by_cases hreg : regAt a = .csumIn
  · exact .inr ⟨(regAt_eq_csumIn_iff a).mp hreg, if_pos hreg⟩
  · exact .inl (if_neg hreg)

/-- A store writes no flag but BUSY (10_state.md R41). -/
theorem storeReg_flags (r : Reg) (v : Byte) (s : State) :
    (storeReg r v s).status.posValid = s.status.posValid ∧ (storeReg r v s).status.ack = s.status.ack ∧
      (storeReg r v s).status.err = s.status.err := by
  rw [storeReg_status]
  split <;> exact ⟨rfl, rfl, rfl⟩

/-- A store sets BUSY only where its word is a CMD write, whose code is then in PENDING (10_state.md R20). -/
theorem storeReg_regAt_sets_busy {a v : Byte} {s : State} (hidle : s.status.busy = false)
    (hbusy : (storeReg (regAt a) v s).status.busy = true) : a = 0x00 ∧ (storeReg (regAt a) v s).pending = v := by
  rw [storeReg_status] at hbusy
  by_cases hreg : regAt a = .cmd
  · exact ⟨(regAt_eq_cmd_iff a).mp hreg, by rw [storeReg_pending, if_pos hreg]⟩
  · rw [if_neg hreg, hidle] at hbusy
    cases hbusy

/-- A turn of the core changes CSUM_ACC only where it performs CSUM_CLR, which clears it (10_state.md R32). -/
theorem coreTurn_csumAcc (s : State) :
    (coreTurn s).csumAcc = s.csumAcc ∨ s.status.busy = true ∧ s.pending = 0x07 ∧ (coreTurn s).csumAcc = 0 := by
  cases hbusy : s.status.busy with
  | false => exact .inl (by rw [coreTurn_idle hbusy])
  | true =>
    rw [coreTurn_busy hbusy]
    by_cases hpending : s.pending = 0x07
    · exact .inr ⟨rfl, hpending, by rw [coreStep_csumClr hpending]; rfl⟩
    · exact .inl (coreStep_csumAcc hpending)

end Sys2Proof.Machine

namespace Sys2Proof.Proofs

open Machine

/-- Settles O44: no event but a reset touches a result while no command is pending, and a store adds to CSUM_ACC at
CSUM_IN's address only. -/
theorem resultsStayUntilTheNextCommand : Obligations.ResultsStayUntilTheNextCommand := by
  intro s t hidle hnoReset h
  rcases step_cases h with ⟨a, v, hev, _, rfl⟩ | ⟨p, b, n, _, rfl⟩ | ⟨_, p, rb, rl, _, rfl⟩ | ⟨_, rfl⟩ | ⟨hev, _⟩
  · obtain ⟨hvalid, hack, herr⟩ := storeReg_flags (regAt a) v { s with events := s.events.tail }
    refine ⟨storeReg_txBuf _ _ _, storeReg_txLen _ _ _, storeReg_pos _ _ _, hvalid, hack, herr, ?_⟩
    rcases storeReg_regAt_csumAcc a v { s with events := s.events.tail } with hsame | ⟨rfl, hadds⟩
    · exact .inl hsame
    · exact .inr ⟨v, hev, hadds⟩
  · exact ⟨rfl, rfl, rfl, rfl, rfl, rfl, .inl rfl⟩
  · exact ⟨rfl, rfl, rfl, rfl, rfl, rfl, .inl rfl⟩
  · have hturn : coreTurn { s with events := s.events.tail } = { s with events := s.events.tail } := coreTurn_idle hidle
    rw [hturn]
    exact ⟨rfl, rfl, rfl, rfl, rfl, rfl, .inl rfl⟩
  · exact absurd hev hnoReset

/-- Settles O45: a store changes CSUM_ACC at CSUM_IN's address only, the core at CSUM_CLR only. -/
theorem onlyCsumInCsumClrAndResetChangeTheAccumulator :
    Obligations.OnlyCsumInCsumClrAndResetChangeTheAccumulator := by
  intro s t h hchanged
  rcases step_cases h with ⟨a, v, hev, _, rfl⟩ | ⟨p, b, n, _, rfl⟩ | ⟨_, p, rb, rl, _, rfl⟩ | ⟨hev, rfl⟩ | ⟨hev, rfl⟩
  · rcases storeReg_regAt_csumAcc a v { s with events := s.events.tail } with hsame | ⟨rfl, hadds⟩
    · exact absurd hsame hchanged
    · exact .inl ⟨v, hev, hadds⟩
  · exact absurd rfl hchanged
  · exact absurd rfl hchanged
  · rcases coreTurn_csumAcc { s with events := s.events.tail } with hsame | ⟨hbusy, hpending, hclears⟩
    · exact absurd hsame hchanged
    · exact .inr (.inl ⟨hbusy, hpending, hev, hclears⟩)
  · exact .inr (.inr ⟨hev, rfl⟩)

/-- Settles O46: only a store to CMD sets BUSY, and while BUSY = 1 only the core's turn and a reset do more than change
what is no register. -/
theorem busyRisesAtCmdWritesAndFallsAtTheCore : Obligations.BusyRisesAtCmdWritesAndFallsAtTheCore := by
  intro s t h
  rcases step_cases h with ⟨a, v, hev, hidle, rfl⟩ | ⟨p, b, n, _, rfl⟩ | ⟨hidle, p, rb, rl, _, rfl⟩ | ⟨hev, rfl⟩ |
    ⟨hev, rfl⟩
  · refine ⟨fun _ hrises => ?_, fun hbusy => ?_, fun hbusy => ?_⟩
    · obtain ⟨rfl, hpending⟩ := storeReg_regAt_sets_busy (s := { s with events := s.events.tail }) hidle hrises
      rw [hev, hpending]
      rfl
    · simp [hidle] at hbusy
    · simp [hidle] at hbusy
  · exact ⟨fun hidle hbusy => absurd (hidle.symm.trans hbusy) (by decide),
      fun hbusy hidle => absurd (hidle.symm.trans hbusy) (by decide), fun _ _ => rfl⟩
  · exact ⟨fun _ hbusy => absurd (hidle.symm.trans hbusy) (by decide), fun hbusy => by simp [hidle] at hbusy,
      fun _ _ => rfl⟩
  · have hidle := coreTurn_not_busy { s with events := s.events.tail }
    exact ⟨fun _ hbusy => absurd (hidle.symm.trans hbusy) (by decide), fun _ _ => hev.imp_right .inr,
      fun _ hbusy => absurd (hidle.symm.trans hbusy) (by decide)⟩
  · exact ⟨fun _ hbusy => (by cases hbusy), fun _ _ => .inr (.inl hev), fun _ hbusy => (by cases hbusy)⟩

end Sys2Proof.Proofs
end

section
/-! Host reads in a schedule, and the runs they are part of: waiting for the core (70_reset_and_hazards.md R127, R129) and
the accumulator (40_checksum.md R82, R83). -/

namespace Sys2Proof.Machine

/-! ### What is no register of FCODEC -/

/-- The state with another read port, count of draws and schedule: what is no register (log 1, log 5, log 6). -/
def setHostSide (rdata : Byte) (draws : Nat) (events : List Event) (s : State) : State :=
  { s with rdata := rdata, draws := draws, events := events }

/-- No command's body looks at what is no register. -/
theorem commandBody_setHostSide (c : Command) (b : Byte) (n : Nat) (ev : List Event) (s : State) :
    commandBody c (setHostSide b n ev s) = setHostSide b n ev (commandBody c s) := by
  cases c with
  | encPing | encGetpos | csumClr | illegal => rfl
  | encMove =>
    have hcheck : moveRejected (setHostSide b n ev s).params = moveRejected s.params := rfl
    simp only [commandBody, bodyEncMove, hcheck]
    split <;> rfl
  | decPing =>
    have hcheck : replyError 4 (setHostSide b n ev s) = replyError 4 s := rfl
    simp only [commandBody, bodyDecPing, hcheck]
    cases replyError 4 s <;> rfl
  | decMoveack =>
    have hcheck : replyError 4 (setHostSide b n ev s) = replyError 4 s := rfl
    simp only [commandBody, bodyDecMoveack, hcheck]
    cases replyError 4 s <;> rfl
  | decPos =>
    have hcheck : positionError (setHostSide b n ev s) = positionError s := rfl
    simp only [commandBody, bodyDecPos, hcheck]
    cases positionError s <;> rfl

/-- Nor does the core step, whose other steps write STATUS only. -/
theorem coreStep_setHostSide (b : Byte) (n : Nat) (ev : List Event) (s : State) :
    coreStep (setHostSide b n ev s) = setHostSide b n ev (coreStep s) :=
  congrArg closeCommand (commandBody_setHostSide (commandOf s.pending) b n ev (openCommand s))

/-! ### Host reads -/

/-- A read changes what is no register; it draws a value while BUSY = 1 only (70_reset_and_hazards.md R125). -/
theorem memRead_setHostSide (a : Byte) (s : State) :
    ∃ b, memRead a s = setHostSide b (if s.status.busy then s.draws + 1 else s.draws) s.events s := by
  unfold memRead
  split
  · exact ⟨_, rfl⟩
  · exact ⟨_, rfl⟩

/-- The events of host reads, by their words' A and D fields. -/
def readEvents (reads : List (Byte × Byte)) : List Event :=
  reads.map fun ad => .packet (.host (0#1 ++ ad.1 ++ ad.2))

theorem step_read {s : State} {a d : Byte} {rest : List Event} (h : s.events = .packet (.host (readWord a d)) :: rest) :
    step s = .next (memRead a { s with events := rest }) :=
  step_packet h (decodeHost_readWord a d)

/-- Any number of host reads run through and change what is no register. -/
theorem run_reads (reads : List (Byte × Byte)) {s : State} {rest : List Event} (h : s.events = readEvents reads ++ rest) :
    ∃ b, Host.Core.run Sys2Proof.core reads.length s =
      .next (setHostSide b (if s.status.busy then s.draws + reads.length else s.draws) rest s) := by
  induction reads generalizing s with
  | nil =>
    have hev : s.events = rest := h
    refine ⟨s.rdata, ?_⟩
    rw [List.length_nil, Nat.add_zero, ite_self, ← hev]
    rfl
  | cons ad reads ih =>
    have hstep := step_read (a := ad.1) (d := ad.2) (rest := readEvents reads ++ rest) h
    obtain ⟨b, hread⟩ := memRead_setHostSide ad.1 { s with events := readEvents reads ++ rest }
    rw [hread] at hstep
    obtain ⟨b', hrun⟩ := ih (s := setHostSide b _ _ { s with events := readEvents reads ++ rest }) rfl
    refine ⟨b', (run_next hstep reads.length).trans (hrun.trans ?_)⟩
    cases hbusy : s.status.busy <;> simp [setHostSide, hbusy, Nat.add_assoc, Nat.add_comm 1]

theorem replicate_status_reads (n : Nat) :
    List.replicate n (.packet (.host 0x00100)) = readEvents (List.replicate n (0x01, 0x00)) := by
  rw [readEvents, List.map_replicate]
  rfl

/-! ### Writes to CSUM_IN -/

/-- The events of CSUM_IN writes, by their bytes. -/
def csumInEvents (bs : List Byte) : List Event := bs.map fun b => .packet (.host (1#1 ++ 0x0F#8 ++ b))

theorem step_csumIn {s : State} {b : Byte} {rest : List Event} (hidle : s.status.busy = false)
    (h : s.events = .packet (.host (writeWord 0x0F b)) :: rest) :
    step s = .next (addToChecksum b { s with events := rest }) := by
  rw [step_packet h (decodeHost_writeWord 0x0F b), exec_writeInstr]
  exact memWrite_csumIn_idle b hidle

/-- CSUM_IN writes while BUSY = 0 add their checksum to CSUM_ACC and change nothing else (40_checksum.md R81). -/
theorem run_csumIns (bs : List Byte) {s : State} {rest : List Event} (hidle : s.status.busy = false)
    (h : s.events = csumInEvents bs ++ rest) :
    Host.Core.run Sys2Proof.core bs.length s =
      .next { s with csumAcc := s.csumAcc + checksum bs, events := rest } := by
  induction bs generalizing s with
  | nil =>
    have hev : s.events = rest := h
    rw [checksum_nil, add_zero, ← hev]
    rfl
  | cons b bs ih =>
    have hstep := step_csumIn (rest := csumInEvents bs ++ rest) hidle h
    have hrun := ih (s := addToChecksum b { s with events := csumInEvents bs ++ rest }) hidle rfl
    rw [List.length_cons, run_next hstep, hrun, checksum_cons, ← BitVec.add_assoc]
    rfl

/-! ### A command from its write to its core step -/

theorem step_cmdWrite {s : State} {v : Byte} {rest : List Event} (hidle : s.status.busy = false)
    (h : s.events = .packet (.host (1#1 ++ 0x00#8 ++ v)) :: rest) :
    step s = .next (latchCommand v { s with events := rest }) := by
  rw [step_packet h (decode_cmdWrite v), exec_writeInstr]
  exact memWrite_cmd_idle v hidle

/-- While a command is pending, host reads and then the core's turn are its core step, but for what is no register. -/
theorem run_reads_core (reads : List (Byte × Byte)) {s : State} {rest : List Event} (hbusy : s.status.busy = true)
    (h : s.events = readEvents reads ++ .core :: rest) :
    ∃ b, Host.Core.run Sys2Proof.core (reads.length + 1) s =
      .next (setHostSide b (s.draws + reads.length) rest (coreStep s)) := by
  obtain ⟨b, hreads⟩ := run_reads reads h
  rw [hbusy, if_pos rfl] at hreads
  have hcore : step (setHostSide b (s.draws + reads.length) (.core :: rest) s) =
      .next (coreTurn (setHostSide b (s.draws + reads.length) rest s)) := step_core rfl
  have hturn := coreTurn_busy (s := setHostSide b (s.draws + reads.length) rest s) hbusy
  rw [hturn, coreStep_setHostSide] at hcore
  exact ⟨b, (run_add hreads 1).trans (run_next hcore 0)⟩

/-- CSUM_CLR with any waiting before and after its core step leaves CSUM_ACC and BUSY 0 (40_checksum.md R80). -/
theorem run_csumClr (before after : Nat) {s : State} {rest : List Event} (hidle : s.status.busy = false)
    (h : s.events =
      .packet (.host 0x10007) :: (List.replicate before (.packet (.host 0x00100)) ++
        .core :: (List.replicate after (.packet (.host 0x00100)) ++ rest))) :
    ∃ t : State, Host.Core.run Sys2Proof.core (1 + before + 1 + after) s = .next t ∧ t.csumAcc = 0 ∧
      t.status.busy = false ∧ t.events = rest := by
  rw [replicate_status_reads, replicate_status_reads] at h
  have hlatch := step_cmdWrite (v := 0x07) hidle h
  obtain ⟨b, hclear⟩ := run_reads_core (s := latchCommand 0x07 { s with events := _ })
    (List.replicate before (0x01, 0x00)) rfl rfl
  obtain ⟨b', hwait⟩ := run_reads (s := setHostSide b _ _ (coreStep (latchCommand 0x07 { s with events := _ })))
    (List.replicate after (0x01, 0x00)) rfl
  rw [List.length_replicate] at hclear hwait
  have hstart := (run_add ((run_next hlatch 0).trans (run_zero _)) (before + 1)).trans hclear
  rw [Nat.add_assoc 1 before 1]
  exact ⟨_, (run_add hstart after).trans hwait, rfl, rfl, rfl⟩

end Sys2Proof.Machine

namespace Sys2Proof.Proofs

open Machine

/-- Settles O57: reads change what is no register, which the core step does not look at. -/
theorem latencyDoesNotChangeTheResult : Obligations.LatencyDoesNotChangeTheResult := by
  intro s reads rest hbusy h
  obtain ⟨b, hrun⟩ := run_reads_core reads hbusy h
  exact ⟨_, hrun, b, rfl⟩

/-- Settles O54: the write latches the code and sets BUSY, so the core's turn is its step. -/
theorem commandIsItsWriteAndTheCoreStep : Obligations.CommandIsItsWriteAndTheCoreStep := by
  intro s v rest hidle h
  have hlatch := step_cmdWrite hidle h
  have hcore : step (latchCommand v { s with events := .core :: rest }) =
      .next (coreTurn (latchCommand v { s with events := rest })) := step_core rfl
  exact (run_next hlatch 1).trans (run_next hcore 0)

/-- Settles O25: CSUM_CLR leaves CSUM_ACC = 0 however long the host waits, as reset does, and the writes add their
checksum. -/
theorem accumulatorHoldsTheChecksum : Obligations.AccumulatorHoldsTheChecksum := by
  constructor
  · intro s before after bs rest hidle h
    obtain ⟨t, hclear, hacc, hdone, hev⟩ := run_csumClr before after hidle h
    refine ⟨_, (run_add hclear bs.length).trans (run_csumIns bs hdone hev), ?_, hdone, rfl⟩
    rw [hacc]
    exact BitVec.zero_add _
  · intro bs
    refine ⟨_, run_csumIns (rest := []) bs rfl (List.append_nil _).symm, ?_⟩
    exact BitVec.zero_add _

/-- Settles O22: the checksum of an appended byte is the sum, so a frame's own checksum is added to itself. -/
theorem checksumOfExtendedBytes : Obligations.ChecksumOfExtendedBytes := by
  have happend (bs : List Byte) (x : Byte) :
      checksum (bs ++ [x]) = BitVec.ofNat 8 ((checksum bs).toNat + x.toNat) := by
    rw [checksum_append, checksum_cons, checksum_nil, add_zero, BitVec.ofNat_add, BitVec.ofNat_toNat,
      BitVec.ofNat_toNat, BitVec.setWidth_eq, BitVec.setWidth_eq]
  refine ⟨happend, fun bs => ?_⟩
  rw [withChecksum, happend, Nat.two_mul]

end Sys2Proof.Proofs
end

section
/-! The address map, host reads, and STATUS (10_state.md R18, R19, 20_memory.md R45, 70_reset_and_hazards.md R125). -/

namespace Sys2Proof.Machine

/-! ### What an address reads -/

theorem readByte_of_regAt {a : Byte} {r : Reg} (h : regAt a = r) (s : State) : readByte a s = readReg r s := by
  rw [readByte, h]

theorem setWidth_one_eq_append (v : BitVec 1) : v.setWidth 8 = 0#7 ++ v := by
  revert v
  decide

theorem setWidth_four_eq_append (v : BitVec 4) : v.setWidth 8 = 0#4 ++ v := by
  revert v
  decide

/-- Bits of a word and its byte below them. -/
theorem extractLsb'_append_byteAt {n : Nat} (v : BitVec n) {m k : Nat} (h : m = 8 * k + 8) (len : Nat) :
    v.extractLsb' m len ++ byteAt v k = v.extractLsb' (8 * k) (len + 8) :=
  BitVec.extractLsb'_append_extractLsb'_eq_extractLsb' h

/-- A 64-bit group is its eight bytes, the most significant first (10_state.md R26, R36). -/
theorem append_byteAt_64 (v : BitVec 64) :
    byteAt v 7 ++ byteAt v 6 ++ byteAt v 5 ++ byteAt v 4 ++ byteAt v 3 ++ byteAt v 2 ++ byteAt v 1 ++ byteAt v 0 = v := by
  have join {m k : Nat} (h : m = 8 * k + 8) (len : Nat) := extractLsb'_append_byteAt v h len
  have htop : byteAt v 7 = v.extractLsb' 56 8 := rfl
  rw [htop, join (k := 6) rfl, join (k := 5) rfl, join (k := 4) rfl, join (k := 3) rfl, join (k := 2) rfl,
    join (k := 1) rfl, join (k := 0) rfl]
  exact BitVec.extractLsb'_eq_self

/-- The reserved addresses (10_state.md R39). -/
theorem regAt_reserved (a : Byte)
    (h : 0x1B ≤ a.toNat ∧ a.toNat ≤ 0x1F ∨ 0x2A ≤ a.toNat ∧ a.toNat ≤ 0x2F ∨ a.toNat = 0x36 ∨ a.toNat = 0x37 ∨
      0x40 ≤ a.toNat) : regAt a = .reserved := by
  revert a
  decide

/-- WO registers and reserved addresses read 0 (20_memory.md R45). -/
theorem readReg_wo_or_reserved {r : Reg} (s : State) (h : accessOf r = .wo ∨ accessOf r = .rsvd) : readReg r s = 0x00 := by
  cases r with
  | cmd | csumIn | reserved => rfl
  | _ => exact absurd h (by simp [accessOf])

/-! ### MemRead -/

theorem memRead_idle (a : Byte) {s : State} (h : s.status.busy = false) :
    memRead a s = { s with rdata := readByte a s } := if_neg (by simp [h])

theorem memRead_busy (a : Byte) {s : State} (h : s.status.busy = true) :
    memRead a s = { s with rdata := busyByte a (Config.busyRead s.draws), draws := s.draws + 1 } := if_pos h

/-- A register does not depend on the port that read it. -/
theorem readReg_rdata (r : Reg) (b : Byte) (s : State) : readReg r { s with rdata := b } = readReg r s := by
  cases r <;> rfl

/-- Reading an address again gives the same (20_memory.md R45). -/
theorem memRead_idempotent (a : Byte) {s : State} (h : s.status.busy = false) : memRead a (memRead a s) = memRead a s := by
  rw [memRead_idle a h, memRead_idle a (s := { s with rdata := readByte a s }) h]
  exact congrArg (fun b => { s with rdata := b }) (readReg_rdata (regAt a) _ s)

/-! ### STATUS -/

/-- The fields of the STATUS byte, whatever number stands for the error (10_state.md R19). -/
theorem statusFields (busy posValid ack : Bool) (e : BitVec 3) :
    let b : Byte := BitVec.ofBool busy ++ 0#2 ++ BitVec.ofBool posValid ++ BitVec.ofBool ack ++ e
    b.getLsbD 7 = busy ∧ b.extractLsb' 5 2 = 0#2 ∧ b.getLsbD 4 = posValid ∧ b.getLsbD 3 = ack ∧ b.extractLsb' 0 3 = e := by
  revert busy posValid ack e
  decide

end Sys2Proof.Machine

namespace Sys2Proof.Proofs

open Machine

/-- Settles O12: one row of the map per address. -/
theorem addressMapAccessKeys : Obligations.AddressMapAccessKeys := by
  unfold Obligations.AddressMapAccessKeys
  decide

/-- Settles O13: the register of each address, and each group as its bytes. -/
theorem addressMapReads : Obligations.AddressMapReads := fun s =>
  ⟨rfl, rfl, setWidth_one_eq_append s.fmt, rfl, setWidth_one_eq_append s.params.dir, rfl, rfl, rfl, rfl, rfl, rfl, rfl, rfl,
    rfl, setWidth_four_eq_append s.txLen, setWidth_four_eq_append s.rxLen, rfl, rfl,
    fun i => readByte_of_regAt (regAt_txBuf i) s, fun i => readByte_of_regAt (regAt_rxBuf i) s,
    (be32_byteAt s.pos.carry).symm, (be16_byteAt s.pos.value).symm, (append_byteAt_64 s.pos.result).symm,
    fun a ha => readByte_of_regAt (regAt_reserved a ha) s⟩

/-- Settles O14: the byte's fields, with the error's number in the lowest. -/
theorem statusByteLayout : Obligations.StatusByteLayout :=
  ⟨fun f => statusFields f.busy f.posValid f.ack (errNumber f.err), rfl, rfl, rfl, rfl, rfl, rfl⟩

/-- Settles O17: RD is MemRead, which while BUSY = 0 puts the register on rdata and is idempotent. -/
theorem rdReturnsTheRegister : Obligations.RdReturnsTheRegister := by
  refine fun s a d hidle => ⟨congrArg _ (memRead_idle a hidle), readReg_wo_or_reserved s, fun t ht => ?_⟩
  obtain rfl : memRead a s = t := Host.Outcome.next.inj ht
  exact congrArg Host.Outcome.next (memRead_idempotent a hidle)

/-- Settles O18: while BUSY = 1 MemRead puts a free value on rdata, with STATUS bit 7 made exact. -/
theorem rdWhileBusyReadsOnlyBusyExactly : Obligations.RdWhileBusyReadsOnlyBusyExactly := by
  refine fun s a d hbusy => ⟨_, congrArg _ (memRead_busy a hbusy), ?_⟩
  rintro rfl
  exact busyByte_status _

end Sys2Proof.Proofs
end

section
/-! The frames in TX_BUF and RX_BUF: what encode commands leave to be sent (41_encoder.md R88, R89), what a received reply
leaves (20_memory.md R58), and what the decode commands make of it (42_decoder.md R91 to R99). -/

namespace Sys2Proof.Machine

/-! ### The frame in TX_BUF -/

/-- The first bytes of a buffer after a frame is written to it are the frame's. -/
theorem overlay_take {n : Nat} (old : Vector Byte n) (bs : List Byte) {k : Nat} (hk : k ≤ bs.length)
    (hn : bs.length ≤ n) : (overlay old bs).toList.take k = bs.take k := by
  apply List.ext_getElem
  · simp
    omega
  · intro i _ hi
    have hlt : i < bs.length := by
      rw [List.length_take] at hi
      omega
    simp [overlay, hlt]

/-- The bytes an encode command leaves to be sent, TX_LEN of them (10_state.md R28), are its frame. -/
theorem sent_putFrame {f : List Byte} (hlen : f.length ≤ 11) (s : State) :
    (closeCommand (putFrame f (openCommand s))).txBuf.toList.take
      (closeCommand (putFrame f (openCommand s))).txLen.toNat = f := by
  have htxLen : (closeCommand (putFrame f (openCommand s))).txLen.toNat = f.length := by
    rw [closeCommand_txLen, putFrame_txLen, BitVec.toNat_ofNat]
    omega
  rw [htxLen, closeCommand_txBuf, putFrame_txBuf, overlay_take _ f le_rfl hlen, List.take_length]

/-- ENC_MOVE that leaves no error had its parameters in range (41_encoder.md R86). -/
theorem moveRejected_of_err_none {s : State} (h : s.pending = 0x03) (herr : (coreStep s).status.err = .none) :
    moveRejected s.params = false := by
  cases hp : moveRejected s.params with
  | false => rfl
  | true =>
    rw [coreStep_encMove_rejected h hp] at herr
    cases herr

/-- The bytes ENC_MOVE leaves in TX_BUF; of the speed only its low byte is among them (41_encoder.md R88). -/
theorem coreStep_encMove_txBuf {s : State} (h : s.pending = 0x03) (hp : moveRejected s.params = false) :
    (coreStep s).txBuf = overlay s.txBuf
      (withChecksum [0xFA, s.params.devAddr, 0xFD, s.params.dir ++ 0#3 ++ s.params.speedLo.extractLsb' 4 4,
        0#4 ++ s.params.speedLo.extractLsb' 0 4, s.params.accel, byteAt (pulsesOf s.params) 3,
        byteAt (pulsesOf s.params) 2, byteAt (pulsesOf s.params) 1, byteAt (pulsesOf s.params) 0]) := by
  rw [coreStep_encMove_accepted h hp, closeCommand_txBuf, putFrame_txBuf, speedOf, moveFrame_be16]
  rfl

/-- The move row's frame with the checksum of its other bytes is well-formed, and is what the encoder builds
(30_encoding.md R68, 41_encoder.md R87). -/
theorem exists_wf_frameMove (a : Byte) (d : BitVec 1) (h t : BitVec 4) {g : Byte} (p : BitVec 32) (hg : g.toNat ≤ 32) :
    ∃ c, Instr.wf (.frameMove a d h t g p c) = true ∧
      encode (.frameMove a d h t g p c) =
        .link (withChecksum [0xFA, a, 0xFD, d ++ 0#3 ++ h, 0#4 ++ t, g, byteAt p 3, byteAt p 2, byteAt p 1, byteAt p 0]) := by
  refine ⟨_, ?_, rfl⟩
  simp [Instr.wf, hg]

/-! ### A received reply -/

/-- The state with a status reply received: its bytes in RX_BUF from index 0, their count in RX_LEN (log 11). -/
def withStatusReply (a e r : Byte) (s : State) : State :=
  { s with rxBuf := overlay s.rxBuf [0xFB, a, e, r], rxLen := 4 }

/-- The state with a position reply received: its bytes fill RX_BUF (log 11). -/
def withPosReply (a e : Byte) (k : BitVec 32) (v : BitVec 16) (z : Byte) (s : State) : State :=
  { s with
    rxBuf := #v[0xFB, a, e, byteAt k 3, byteAt k 2, byteAt k 1, byteAt k 0, byteAt v 1, byteAt v 0, z]
    rxLen := 10 }

theorem exec_statusReply_idle (a e r : Byte) {s : State} (h : s.status.busy = false) :
    exec (.frameStatusReply a e r) s = .next (withStatusReply a e r s) :=
  rxLoad_idle [0xFB, a, e, r] s h (by simp)

theorem exec_posReply_idle (a e : Byte) (k : BitVec 32) (v : BitVec 16) (z : Byte) {s : State}
    (h : s.status.busy = false) : exec (.framePosReply a e k v z) s = .next (withPosReply a e k v z s) := by
  refine (rxLoad_idle _ s h (by simp)).trans ?_
  rw [overlay_full s.rxBuf _ rfl]
  rfl

/-- A four-byte reply in RX_BUF, byte by byte. -/
theorem overlay_reply (old : Vector Byte 10) (b0 b1 b2 b3 : Byte) :
    overlay old [b0, b1, b2, b3] = (((old.set 0 b0).set 1 b1).set 2 b2).set 3 b3 := by
  ext i hi
  match i with
  | 0 | 1 | 2 | 3 => simp
  | i + 4 => simp

/-- A received status reply passes the checks, whatever command is then written (42_decoder.md R91, R92). -/
theorem replyError_withStatusReply (a e r c : Byte) (s : State) :
    replyError 4 { withStatusReply a e r s with pending := c } = none :=
  replyError_ok (s := { withStatusReply a e r s with pending := c }) le_rfl (overlay_getElem _ _ 0 _)

/-- A received position reply fails the check of the address only (42_decoder.md R93). -/
theorem positionError_withPosReply (a e : Byte) (k : BitVec 32) (v : BitVec 16) (z c : Byte) (s : State) :
    positionError { withPosReply a e k v z s with pending := c } =
      if a ≠ s.params.devAddr then some .protoMismatch else none := by
  rw [positionError, replyError_ok (n := 10) (s := { withPosReply a e k v z s with pending := c }) le_rfl rfl]
  rfl

/-! ### Decoding a valid reply -/

theorem coreStep_decPing_ok {s : State} (h : s.pending = 0x04) (hr : replyError 4 s = none) :
    coreStep s = { s with status := { busy := false, posValid := false, ack := true, err := .none } } := by
  rw [← replyError_open] at hr
  rw [coreStep_decPing h, bodyDecPing, hr, ← closeCommand_setAck_openCommand]

theorem coreStep_decMoveack_ok {s : State} (h : s.pending = 0x05) (hr : replyError 4 s = none) :
    coreStep s =
      { s with status := { busy := false, posValid := false, ack := decide (s.rxBuf[3] = 0x01), err := .none } } := by
  rw [← replyError_open] at hr
  rw [coreStep_decMoveack h, bodyDecMoveack, hr, ← closeCommand_setAck_openCommand, ← beq_eq_decide]
  rfl

theorem positionError_ok {s : State} (h : 10 ≤ s.rxLen.toNat) (hh : s.rxBuf[0] = 0xFB)
    (ha : s.rxBuf[1] = s.params.devAddr) : positionError s = none := by
  rw [positionError, replyError_ok h hh]
  exact if_neg (not_not_intro ha)

/-- DEC_POS on a valid reply: the position decoded from RX_BUF, and POS_VALID (42_decoder.md R94, R99). -/
theorem coreStep_decPos_ok {s : State} (h : s.pending = 0x06) (hr : positionError s = none) :
    coreStep s =
      { s with
        pos := decodedPosition s.fmt s.rxBuf
        status := { busy := false, posValid := true, ack := false, err := .none } } := by
  rw [← positionError_open] at hr
  rw [coreStep_decPos h, bodyDecPos, hr]
  rfl

end Sys2Proof.Machine

namespace Sys2Proof.Proofs

open Machine

/-- Settles O30: the frame is a function of the registers other than SPEED_HI. -/
theorem encMoveCarriesOnlyTheLowSpeedByte : Obligations.EncMoveCarriesOnlyTheLowSpeedByte := by
  intro s hi hpending haccel hspeed hspeed'
  have hthis := coreStep_encMove_txBuf hpending ((moveRejected_false_iff s.params).mpr ⟨hspeed, haccel⟩)
  have hother := coreStep_encMove_txBuf (s := { s with params := { s.params with speedHi := hi } }) hpending
    ((moveRejected_false_iff _).mpr ⟨hspeed', haccel⟩)
  refine ⟨hother.trans hthis.symm, ?_, ?_⟩ <;> rw [hthis, overlay_getElem]
  · exact moveByte3_speed _ _
  · exact moveByte4_speed _

/-- Settles O31: the bytes to be sent are each command's frame, which is its row's encoding with the checksum of the bytes
before it. -/
theorem encodersBuildTheWireFrames : Obligations.EncodersBuildTheWireFrames := by
  refine fun s => ⟨fun hpending => ⟨_, beq_self_eq_true _, ?_⟩, fun hpending => ⟨_, beq_self_eq_true _, ?_⟩,
    fun hpending herr => ?_⟩
  · rw [coreStep_encPing hpending, sent_putFrame (by simp [pingFrame_length])]
    rfl
  · rw [coreStep_encGetpos hpending, sent_putFrame (by simp [getposFrame_length])]
    rfl
  · have hrange := moveRejected_of_err_none hpending herr
    obtain ⟨_, haccel⟩ := (moveRejected_false_iff s.params).mp hrange
    obtain ⟨c, hwf, hframe⟩ := exists_wf_frameMove s.params.devAddr s.params.dir (s.params.speedLo.extractLsb' 4 4)
      (s.params.speedLo.extractLsb' 0 4) (pulsesOf s.params) haccel
    refine ⟨_, _, c, hwf, rfl, rfl, ?_⟩
    rw [coreStep_encMove_accepted hpending hrange, sent_putFrame (by simp [moveFrame_length]), hframe, speedOf,
      moveFrame_be16]

/-- Settles O11: the run is computed; its frame is the all-zero move frame. -/
theorem encMoveRightAfterResetIsAccepted : Obligations.EncMoveRightAfterResetIsAccepted :=
  ⟨_, rfl, by decide, by decide, by decide, by decide⟩

/-- Settles O35: the CMD write of 0x06 latches it, and on a valid reply its core step decodes the position. -/
theorem decPosDecodesThePosition : Obligations.DecPosDecodesThePosition := by
  refine ⟨decode_cmdWrite 0x06, fun s hidle => memWrite_cmd_idle 0x06 hidle, fun s hpending hlen hheader haddress => ?_⟩
  exact coreStep_decPos_ok hpending (positionError_ok hlen hheader haddress)

/-- Settles O47: the three rows are the sending of a frame. -/
theorem sentFramesLeaveFcodecUnchanged : Obligations.SentFramesLeaveFcodecUnchanged := fun _ =>
  ⟨fun _ _ => rfl, fun _ _ => rfl, fun _ _ _ _ _ _ _ => rfl⟩

/-- Settles O48: the reply is an rxload of its four bytes. -/
theorem statusReplyIsLoadedIntoRxBuf : Obligations.StatusReplyIsLoadedIntoRxBuf := by
  refine fun s a e r => ⟨fun hidle => ?_, rxLoad_busy 0xFB [a, e, r] s⟩
  rw [exec_statusReply_idle a e r hidle, withStatusReply, overlay_reply]

/-- Settles O49: the reply is an rxload of its ten bytes, which fill RX_BUF. -/
theorem positionReplyIsLoadedIntoRxBuf : Obligations.PositionReplyIsLoadedIntoRxBuf := fun s a e k v z =>
  ⟨exec_posReply_idle a e k v z, rxLoad_busy 0xFB _ s⟩

/-- Settles O50: a received reply passes every check but that of the address, and its fields are in the bytes the decode
commands read. -/
theorem receivedRepliesDecodeToTheirFields : Obligations.ReceivedRepliesDecodeToTheirFields := by
  refine ⟨fun s a e r hidle => ⟨_, exec_statusReply_idle a e r hidle, ?_, ?_⟩,
    fun s a e k v z hidle => ⟨_, exec_posReply_idle a e k v z hidle, fun haddress => ?_, fun haddress => ?_⟩⟩
  · rw [coreStep_decPing_ok rfl (replyError_withStatusReply a e r 0x04 s)]
  · rw [coreStep_decMoveack_ok rfl (replyError_withStatusReply a e r 0x05 s)]
    rfl
  · have hcheck := positionError_withPosReply a e k v z 0x06 s
    rw [if_neg (not_not_intro haddress)] at hcheck
    rw [coreStep_decPos_ok rfl hcheck]
    exact ⟨rfl, be32_byteAt k, be16_byteAt v⟩
  · have hcheck := positionError_withPosReply a e k v z 0x06 s
    rw [if_pos haddress] at hcheck
    rw [coreStep_decPos_rejected rfl hcheck]
    exact ⟨rfl, rfl⟩

end Sys2Proof.Proofs
end

section
/-! The registers' invariant, at reset and along every step (10_state.md R28, R36, 41_encoder.md R89, 42_decoder.md
R101). -/

namespace Sys2Proof

open Machine

/-! ### What the invariant looks at -/

/-- The invariant looks at TX_LEN, TX_BUF, the position groups and the flags other than BUSY. -/
theorem registersOk_of_same {s t : State} (h : RegistersOk s) (htxLen : t.txLen = s.txLen) (htxBuf : t.txBuf = s.txBuf)
    (hpos : t.pos = s.pos)
    (hflags : t.status.posValid = s.status.posValid ∧ t.status.ack = s.status.ack ∧ t.status.err = s.status.err) :
    RegistersOk t := by
  obtain ⟨hvalid, hack, herr⟩ := hflags
  unfold RegistersOk txFrameOk flagsOk at h ⊢
  rw [htxLen, htxBuf, hpos, hvalid, hack, herr]
  exact h

/-- Flags with at most one result, and none beside an error. -/
theorem flagsOk_doneStatus {posValid ack : Bool} {e : ErrCode} (herr : e ≠ .none → posValid = false ∧ ack = false)
    (hone : ¬(posValid = true ∧ ack = true)) : flagsOk (doneStatus posValid ack e) :=
  ⟨fun he => (herr he).symm, fun hboth => hone hboth.symm⟩

/-! ### The frames the encode commands leave -/

/-- A four-byte frame in TX_BUF meets the invariant (41_encoder.md R84, R85). -/
theorem txFrameOk_four {t : State} {old : Vector Byte 11} {a o : Byte} (hlen : t.txLen = 4)
    (hbuf : t.txBuf = overlay old (withChecksum [0xFA, a, o])) (ho : o = 0x3A ∨ o = 0x30) : txFrameOk t := by
  refine .inr (.inl ⟨hlen, ?_⟩)
  have htake : (overlay old (withChecksum [0xFA, a, o])).toList.take 3 = [0xFA, a, o] :=
    overlay_take old _ (by simp [withChecksum]) (by simp [withChecksum])
  rw [hbuf, htake]
  simp only [overlay_getElem]
  exact ⟨rfl, ho, rfl⟩

/-- A move frame in TX_BUF meets the invariant (41_encoder.md R87, R89). -/
theorem txFrameOk_move {t : State} {old : Vector Byte 11} {a g : Byte} {d : BitVec 1} {sp : BitVec 16} {p : BitVec 32}
    (hlen : t.txLen = 11) (hbuf : t.txBuf = overlay old (moveFrame a d sp g p)) (hg : g.toNat ≤ 32) : txFrameOk t := by
  refine .inr (.inr ⟨hlen, ?_⟩)
  rw [moveFrame_bits] at hbuf
  rw [hbuf, overlay_take old _ (by simp [withChecksum]) (by simp [withChecksum])]
  simp only [overlay_getElem]
  exact ⟨rfl, rfl, moveByte3_reserved _ _, moveByte4_reserved _, hg, rfl⟩

/-! ### Steps -/

/-- Every core step keeps the invariant, whatever the command. -/
theorem coreStep_keeps_registersOk {s : State} (h : RegistersOk s) : RegistersOk (coreStep s) := by
  obtain ⟨htx, _, hpos⟩ := h
  rcases coreStep_cases s with ⟨f, hs, hf⟩ | ⟨hs, _⟩ | ⟨b, hs, _⟩ | ⟨hs, _⟩ | ⟨hs, _⟩ | ⟨e, he, hs⟩ <;> rw [hs]
  · refine ⟨?_, flagsOk_doneStatus (by simp) (by simp), hpos⟩
    rcases hf with ⟨rfl, _⟩ | ⟨rfl, _⟩ | ⟨rfl, _, hrange⟩
    · exact txFrameOk_four rfl rfl (.inl rfl)
    · exact txFrameOk_four rfl rfl (.inr rfl)
    · obtain ⟨_, haccel⟩ := (moveRejected_false_iff s.params).mp hrange
      exact txFrameOk_move rfl rfl haccel
  · exact ⟨.inl rfl, flagsOk_doneStatus (by simp) (by simp), hpos⟩
  · exact ⟨htx, flagsOk_doneStatus (by simp) (by simp), hpos⟩
  · exact ⟨htx, flagsOk_doneStatus (by simp) (by simp), decodedPosition_ok _ _⟩
  · exact ⟨htx, flagsOk_doneStatus (by simp) (by simp), hpos⟩
  · exact ⟨htx, flagsOk_doneStatus (by simp) (by simp), hpos⟩

theorem coreTurn_keeps_registersOk {s : State} (h : RegistersOk s) : RegistersOk (coreTurn s) := by
  unfold coreTurn
  split
  · exact coreStep_keeps_registersOk h
  · exact h

/-- Registers at their reset values meet the invariant. -/
theorem resetRegisters_registersOk (s : State) : RegistersOk (resetRegisters s) := by
  have hpos : positionOk State.reset.pos := .inl (by decide)
  exact ⟨.inl rfl, flagsOk_doneStatus (by simp) (by simp), hpos⟩

end Sys2Proof

namespace Sys2Proof.Proofs

open Machine

/-- Settles O51: reset is the reset of its own registers. -/
theorem resetRegistersAreOk : Obligations.ResetRegistersAreOk := resetRegisters_registersOk State.reset

/-- Settles O52: stores, reads and replies leave all the invariant looks at, the core's turn and a reset keep it. -/
theorem everyStepKeepsTheRegistersOk : Obligations.EveryStepKeepsTheRegistersOk := by
  intro s t hok h
  rcases step_cases h with ⟨a, v, _, _, rfl⟩ | ⟨p, b, n, _, rfl⟩ | ⟨_, p, rb, rl, _, rfl⟩ | ⟨_, rfl⟩ | ⟨_, rfl⟩
  · exact registersOk_of_same hok (storeReg_txLen _ v _) (storeReg_txBuf _ v _) (storeReg_pos _ v _) (storeReg_flags _ v _)
  · exact hok
  · exact hok
  · exact coreTurn_keeps_registersOk hok
  · exact resetRegisters_registersOk _

end Sys2Proof.Proofs
end
